-- ==== Sys2Proof/Word.lean ====
section
/-! DEFINITION. The words and names the spec fixes: levels, operand words, the two organizations, the
seven commands and the three causes of a rejection. -/

namespace Sys2Proof

/-- A logic level: `true` is level 1 (high), `false` is level 0 (low) (R12). -/
abbrev Level := Bool

/-- A command-port operand, `cmd_addr` or `cmd_data`: 32 bits, unsigned (R7, R21). -/
abbrev Operand := BitVec 32

/-- The value of a frame, in the 32-bit frame register's width (R7, R29). -/
abbrev FrameWord := BitVec 32

/-- A data word as RXACC, RDATA and `rsp_rdata` hold it: 16 bits, zero-extended in x8 (R22, R34). -/
abbrev DataWord := BitVec 16

/-- The organization of the device (R3): x8 words with 7-bit addresses, or x16 words with 6-bit addresses. -/
inductive Org where
  | eight
  | sixteen
  deriving DecidableEq, Repr, Inhabited

/-- The seven device commands (R2), in the order of their command codes (R71). -/
inductive Command where
  | writeDisable
  | writeAll
  | eraseAll
  | writeEnable
  | write
  | read
  | erase
  deriving DecidableEq, Repr

/-- The three causes of InvalidArgument, the CORE's only exception (R210). -/
inductive Cause where
  | address
  | data
  | opcode
  deriving DecidableEq, Repr

/-- A command frame: an unsigned value and its explicit bit-count N (R73). -/
structure Frame where
  value : FrameWord
  bits : Nat
  deriving DecidableEq, Repr

end Sys2Proof
end

