-- ==== Sys2Proof/Config.lean ====
section
/-! DEFINITION. What an implementation fixes (the parameters of R6) and what the spec leaves free:
the environment's levels and the OPEN parameters. A free value is a constant without a body. -/

namespace Sys2Proof

/-- One command's row of OPCODE_TABLE (R75): the start bit, the two opcode bits, and the extended opcode of
the commands that have one. -/
structure OpcodeEntry where
  start : BitVec 1
  op : BitVec 2
  ext : Option (BitVec 2)
  deriving DecidableEq, Repr

/-- OPCODE_TABLE (R6, R75): one entry for each command. -/
structure OpcodeTable where
  writeDisable : OpcodeEntry
  writeAll : OpcodeEntry
  eraseAll : OpcodeEntry
  writeEnable : OpcodeEntry
  write : OpcodeEntry
  read : OpcodeEntry
  erase : OpcodeEntry
  deriving DecidableEq, Repr

/-- The implementation parameters of R6: three durations in ticks, and OPCODE_TABLE. -/
structure Params where
  tHalf : Nat
  tSetup : Nat
  tHold : Nat
  opcodes : OpcodeTable
  deriving DecidableEq, Repr

/-- The levels the host drives on the CORE's inputs in one tick: `rst` and `org` (R23), and the command port (R21). -/
structure HostInput where
  rst : Level
  org : Level
  cmdValid : Level
  cmdOp : BitVec 3
  cmdAddr : Operand
  cmdData : Operand
  deriving DecidableEq, Repr, Inhabited

/-- The default OPCODE_TABLE of R75. PRESUMED by the spec for every command but Write (general knowledge, log entry 7). -/
def Config.defaultOpcodes : OpcodeTable where
  writeDisable := ⟨1#1, 0b00#2, some 0b00#2⟩
  writeAll := ⟨1#1, 0b00#2, some 0b01#2⟩
  eraseAll := ⟨1#1, 0b00#2, some 0b10#2⟩
  writeEnable := ⟨1#1, 0b00#2, some 0b11#2⟩
  write := ⟨1#1, 0b01#2, none⟩
  read := ⟨1#1, 0b10#2, none⟩
  erase := ⟨1#1, 0b11#2, none⟩

/-- The reference configuration of R6: T_HALF = 1, T_SETUP = 3, T_HOLD = 3 and the default OPCODE_TABLE. -/
def Config.default : Params where
  tHalf := 1
  tSetup := 3
  tHold := 3
  opcodes := Config.defaultOpcodes

/-- FREE: what the host drives in tick `n` where the State lists no input for that tick (R225, log entry 3). -/
opaque Config.freeHost : Nat → HostInput

/-- FREE: the level on DIN in tick `n` where the State lists none: the oracle draw of R10 (R226, I5, I6; log entry 3). -/
opaque Config.freeDin : Nat → Level

/-- FREE: DOUT in tick `n` of a TXL or TXH phase whose BITCNT names no bit of SR; no run from reset gets there
(R39(b)), and the spec states no level (log entry 12). -/
opaque Config.freeDout : Nat → Level

/-- OPEN: T_WP, the ticks the host must wait after a Write, Erase, WriteAll or EraseAll (R246, D16, log entry 14).
No rule of the CORE reads it. -/
opaque Config.writeTime : Nat

/-- OPEN: ORG_ALIAS, which x16 word, and which half of it (`true` = the high byte), an x8 address names
(R54, D28, log entry 14). No rule of the CORE reads it. -/
opaque Config.orgAlias : BitVec 7 → BitVec 6 × Bool

end Sys2Proof
end

