-- ==== Sys2Proof/Syntax.lean ====
section
/-! DEFINITION. The instruction set: one constructor for each row of spec/opcode_table.json. -/

namespace Sys2Proof

/-- One command of one organization, with the operands it uses (R72) at the command port's 32-bit width (R21).
An operand the command does not use is ignored by the CORE (R72), so it is no argument here.
Out-of-range operands are kept in the syntax, since rejecting them is part of a command's meaning (R210). -/
inductive Instr where
  | writeDisableX16
  | writeAllX16 (data : Operand)
  | eraseAllX16
  | writeEnableX16
  | writeX16 (addr data : Operand)
  | readX16 (addr : Operand)
  | eraseX16 (addr : Operand)
  | writeDisableX8
  | writeAllX8 (data : Operand)
  | eraseAllX8
  | writeEnableX8
  | writeX8 (addr data : Operand)
  | readX8 (addr : Operand)
  | eraseX8 (addr : Operand)
  deriving DecidableEq, Repr

end Sys2Proof
end

