-- ==== Sys2Proof/Machine/Layout.lean ====
section
/-! DEFINITION. The encoding tables of 30_encoding.md: widths, command codes, frame lengths, the layout rows
and the packing of a frame; and the legality of a configuration (R6). -/

namespace Sys2Proof

/-! ### Organizations (R3, R26, R51) -/

/-- The level on the `org` strap names the organization: 0 = Eight, 1 = Sixteen (R23, R26). -/
def Org.ofLevel (l : Level) : Org := if l then .sixteen else .eight

/-- The ORG register's bit (R26). -/
def Org.level : Org → Level
  | .eight => false
  | .sixteen => true

/-- AW = (ORG == 1) ? 6 : 7 (R26). -/
def Org.addrWidth : Org → Nat
  | .eight => 7
  | .sixteen => 6

/-- W = (ORG == 1) ? 16 : 8 (R26). -/
def Org.wordWidth : Org → Nat
  | .eight => 8
  | .sixteen => 16

/-! ### Command codes and operand use (R71, R72) -/

/-- Every command, in the order of R71. -/
def Command.all : List Command :=
  [.writeDisable, .writeAll, .eraseAll, .writeEnable, .write, .read, .erase]

/-- `cmd_op` of a command (R71). -/
def Command.code : Command → BitVec 3
  | .writeDisable => 0
  | .writeAll => 1
  | .eraseAll => 2
  | .writeEnable => 3
  | .write => 4
  | .read => 5
  | .erase => 6

/-- The command a `cmd_op` value names; none for the reserved code 7 (R71). -/
def Command.ofCode (op : BitVec 3) : Option Command :=
  Command.all.find? (fun c => c.code == op)

/-- `cmd_addr` is used by Write, Read and Erase only (R72). -/
def Command.usesAddr : Command → Bool
  | .write | .read | .erase => true
  | .writeDisable | .writeAll | .eraseAll | .writeEnable => false

/-- `cmd_data` is used by Write and WriteAll only (R72); these are the frames that carry data (R79). -/
def Command.usesData : Command → Bool
  | .write | .writeAll => true
  | .writeDisable | .eraseAll | .writeEnable | .read | .erase => false

/-- Read is the one command that samples DIN (R32, R187). -/
def Command.isRead : Command → Bool
  | .read => true
  | .writeDisable | .writeAll | .eraseAll | .writeEnable | .write | .erase => false

/-- The cause code reported on `rsp_err` (R210). -/
def Cause.code : Cause → BitVec 2
  | .address => 1
  | .data => 2
  | .opcode => 3

/-! ### Fields of an instruction -/

/-- The organization of an instruction's row. -/
def Instr.org : Instr → Org
  | .writeDisableX16 | .writeAllX16 _ | .eraseAllX16 | .writeEnableX16 | .writeX16 _ _ | .readX16 _ | .eraseX16 _ =>
    .sixteen
  | .writeDisableX8 | .writeAllX8 _ | .eraseAllX8 | .writeEnableX8 | .writeX8 _ _ | .readX8 _ | .eraseX8 _ =>
    .eight

/-- The command of an instruction's row. -/
def Instr.command : Instr → Command
  | .writeDisableX16 | .writeDisableX8 => .writeDisable
  | .writeAllX16 _ | .writeAllX8 _ => .writeAll
  | .eraseAllX16 | .eraseAllX8 => .eraseAll
  | .writeEnableX16 | .writeEnableX8 => .writeEnable
  | .writeX16 _ _ | .writeX8 _ _ => .write
  | .readX16 _ | .readX8 _ => .read
  | .eraseX16 _ | .eraseX8 _ => .erase

/-- The address operand; an operand the command does not take is presented as 0 (R81). -/
def Instr.addr : Instr → Operand
  | .writeX16 a _ | .readX16 a | .eraseX16 a | .writeX8 a _ | .readX8 a | .eraseX8 a => a
  | .writeDisableX16 | .writeAllX16 _ | .eraseAllX16 | .writeEnableX16 => 0
  | .writeDisableX8 | .writeAllX8 _ | .eraseAllX8 | .writeEnableX8 => 0

/-- The data operand; an operand the command does not take is presented as 0 (R81). -/
def Instr.data : Instr → Operand
  | .writeAllX16 d | .writeX16 _ d | .writeAllX8 d | .writeX8 _ d => d
  | .writeDisableX16 | .eraseAllX16 | .writeEnableX16 | .readX16 _ | .eraseX16 _ => 0
  | .writeDisableX8 | .eraseAllX8 | .writeEnableX8 | .readX8 _ | .eraseX8 _ => 0

/-- The instruction a command, presented under an organization, is; an operand it does not use is dropped (R72). -/
def instrOf (org : Org) (c : Command) (addr data : Operand) : Instr :=
  match org, c with
  | .sixteen, .writeDisable => .writeDisableX16
  | .sixteen, .writeAll => .writeAllX16 data
  | .sixteen, .eraseAll => .eraseAllX16
  | .sixteen, .writeEnable => .writeEnableX16
  | .sixteen, .write => .writeX16 addr data
  | .sixteen, .read => .readX16 addr
  | .sixteen, .erase => .eraseX16 addr
  | .eight, .writeDisable => .writeDisableX8
  | .eight, .writeAll => .writeAllX8 data
  | .eight, .eraseAll => .eraseAllX8
  | .eight, .writeEnable => .writeEnableX8
  | .eight, .write => .writeX8 addr data
  | .eight, .read => .readX8 addr
  | .eight, .erase => .eraseX8 addr

/-! ### The configuration (R6) -/

/-- The entry of a command in OPCODE_TABLE (R75). -/
def OpcodeTable.entry (t : OpcodeTable) : Command → OpcodeEntry
  | .writeDisable => t.writeDisable
  | .writeAll => t.writeAll
  | .eraseAll => t.eraseAll
  | .writeEnable => t.writeEnable
  | .write => t.write
  | .read => t.read
  | .erase => t.erase

/-- The legal OPCODE_TABLEs of R6: S = 1 everywhere and Write's OP = 01; the four extended commands share one OP
and have four distinct EXT values; Write, Read and Erase have no EXT and three other distinct OPs. -/
def OpcodeTable.legal (t : OpcodeTable) : Bool :=
  Command.all.all (fun c => (t.entry c).start == 1#1)
    && Command.all.all (fun c => (t.entry c).ext.isSome == !c.usesAddr)
    && t.write.op == 0b01#2
    && t.writeAll.op == t.writeDisable.op && t.eraseAll.op == t.writeDisable.op
    && t.writeEnable.op == t.writeDisable.op
    && decide [t.writeDisable.ext, t.writeAll.ext, t.eraseAll.ext, t.writeEnable.ext].Nodup
    && decide [t.writeDisable.op, t.write.op, t.read.op, t.erase.op].Nodup

/-- A duration of R6 is legal in 1..65535 ticks. -/
def legalDuration (n : Nat) : Bool := decide (1 ≤ n) && decide (n ≤ 65535)

/-- A configuration of this hardware (R6). -/
def Params.legal (p : Params) : Bool :=
  legalDuration p.tHalf && legalDuration p.tSetup && legalDuration p.tHold && p.opcodes.legal

/-! ### Frame layout (R74 to R79) -/

/-- N = 3 + AW + (carriesData ? W : 0) (R79). -/
def frameBits (org : Org) (c : Command) : Nat :=
  3 + org.addrWidth + (if c.usesData then org.wordWidth else 0)

/-- One row of the layout table of R76, with the mask R83 gives it: the bit-count, the frame value with every
operand zero, the bits a receiver compares, and the offsets of the address and data fields. -/
structure LayoutRow where
  bits : Nat
  pattern : FrameWord
  mask : FrameWord
  addrOff : Option Nat
  dataOff : Option Nat
  deriving DecidableEq, Repr

/-- The row of a command: the pattern is `(S ++ OP) << (N-3)`, ORed with `EXT << (N-5)` for the extended group (R76);
the mask covers S, OP and, for the extended group, EXT (R83). -/
def layout (t : OpcodeTable) (org : Org) (c : Command) : LayoutRow :=
  let e := t.entry c
  let n := frameBits org c
  let head : FrameWord := (e.start ++ e.op).setWidth 32 <<< (n - 3)
  let headMask : FrameWord := 0b111#32 <<< (n - 3)
  { bits := n
    pattern := match e.ext with
      | some x => head ||| (x.setWidth 32 <<< (n - 5))
      | none => head
    mask := match e.ext with
      | some _ => headMask ||| (0b11#32 <<< (n - 5))
      | none => headMask
    addrOff := if c.usesAddr then some (if c.usesData then org.wordWidth else 0) else none
    dataOff := if c.usesData then some 0 else none }

/-- An operand's low `w` bits, moved to a field's offset; nothing where the row has no such field (R105). -/
def fieldAt (v : Operand) (w : Nat) : Option Nat → FrameWord
  | some off => (v.setWidth w).setWidth 32 <<< off
  | none => 0

/-- Packing (R105): the row's pattern, ORed with the address field and the data field. -/
def packFrame (t : OpcodeTable) (org : Org) (c : Command) (addr data : Operand) : Frame :=
  let row := layout t org c
  { value := row.pattern ||| fieldAt addr org.addrWidth row.addrOff ||| fieldAt data org.wordWidth row.dataOff
    bits := row.bits }

/-- A field read back: `f[off+w-1:off]`, zero where the row has no such field (R83). -/
def fieldOf (f : FrameWord) (w : Nat) : Option Nat → Operand
  | some off => ((f >>> off).setWidth w).setWidth 32
  | none => 0

/-- The wire string of a frame: `value[N-1] ... value[0]`, first bit first (R53, R73). -/
def Frame.wire (f : Frame) : List Level :=
  (List.range f.bits).map (fun k => f.value.getLsbD (f.bits - 1 - k))

/-- The value of a string of levels, most significant first (R53). -/
def wireValue (bits : List Level) : Nat :=
  bits.foldl (fun v b => 2 * v + b.toNat) 0

end Sys2Proof
end

