-- ==== Sys2Proof/WellFormed.lean ====
section
/-! DEFINITION. Well-formed instructions: every operand fits the field its organization gives it (R51, R102, R103).
An instruction that is not well-formed still has a meaning: it is rejected with InvalidArgument (R212). -/

namespace Sys2Proof

/-- An operand fits a field of `w` bits. -/
def fits (v : Operand) (w : Nat) : Bool := decide (v.toNat < 2 ^ w)

/-- The operand ranges of R102 and R103: addresses below 2^AW and data below 2^W, where the command uses them. -/
def Instr.wellFormed : Instr → Bool
  | .writeDisableX16 => true
  | .writeAllX16 d => fits d 16
  | .eraseAllX16 => true
  | .writeEnableX16 => true
  | .writeX16 a d => fits a 6 && fits d 16
  | .readX16 a => fits a 6
  | .eraseX16 a => fits a 6
  | .writeDisableX8 => true
  | .writeAllX8 d => fits d 8
  | .eraseAllX8 => true
  | .writeEnableX8 => true
  | .writeX8 a d => fits a 7 && fits d 8
  | .readX8 a => fits a 7
  | .eraseX8 a => fits a 7

end Sys2Proof
end

