-- ==== Sys2Proof/Decode.lean ====
section
/-! DEFINITION. Decoding and encoding. The CORE has two encodings (30_encoding.md): the command port names a command
(R70 to R72), and the frame is what goes out on the wire (R73 to R83). Both decoders are total and reject by name. -/

namespace Sys2Proof

/-- Why bits are no instruction. -/
inductive DecodeError where
  /-- `cmd_op` is the reserved code 7 (R71, R80). -/
  | reservedCode
  /-- The bit-count is no row's N under the organization (R76, R79). -/
  | wrongLength
  /-- The value has a bit at or above its bit-count, so it is no frame (R73). -/
  | tooWide
  /-- No row of that length matches under its mask (R80, R83); a zero start bit is one case. -/
  | noSuchRow
  deriving DecidableEq, Repr

/-- The command-port decoder: a single format, whose meaning only ORG changes (R70 to R72). -/
def decodePort (org : Org) (op : BitVec 3) (addr data : Operand) : Except DecodeError Instr :=
  match Command.ofCode op with
  | some c => .ok (instrOf org c addr data)
  | none => .error .reservedCode

/-- A frame value of `n` bits matches row `c` (R83). -/
def matchesRow (t : OpcodeTable) (org : Org) (n : Nat) (f : FrameWord) (c : Command) : Bool :=
  (layout t org c).bits == n && (f &&& (layout t org c).mask) == (layout t org c).pattern

/-- The instruction of row `c` with the operands in a frame's fields (R83). -/
def readRow (t : OpcodeTable) (org : Org) (f : FrameWord) (c : Command) : Instr :=
  instrOf org c (fieldOf f org.addrWidth (layout t org c).addrOff) (fieldOf f org.wordWidth (layout t org c).dataOff)

/-- The frame decoder of R83: an `n`-bit value received under an organization. Don't-care bits take any value (R78). -/
def decodeFrame (t : OpcodeTable) (org : Org) (n : Nat) (f : FrameWord) : Except DecodeError Instr :=
  if 2 ^ n ≤ f.toNat then .error .tooWide
  else if Command.all.all (fun c => frameBits org c != n) then .error .wrongLength
  else
    match Command.all.find? (matchesRow t org n f) with
    | some c => .ok (readRow t org f c)
    | none => .error .noSuchRow

/-- The decoder on the wire string, most significant bit first (R53): total on every list of levels. -/
def decodeWire (t : OpcodeTable) (org : Org) (bits : List Level) : Except DecodeError Instr :=
  if 32 < bits.length then .error .wrongLength
  else decodeFrame t org bits.length (BitVec.ofNat 32 (wireValue bits))

/-- The bit-counts of R76, each with the organization that has it. No two organizations share one. -/
def frameLengths : List (Nat × Org) :=
  [(9, .sixteen), (25, .sixteen), (10, .eight), (18, .eight)]

/-- The bit-count and organization of a bare frame value: the start bit is always 1 (R74), so it is the highest
set bit, and the four bit-counts of R76 tell the organization (log entry 16). -/
def lengthOf (v : Nat) : Option (Nat × Org) :=
  frameLengths.find? (fun p => decide (2 ^ (p.1 - 1) ≤ v) && decide (v < 2 ^ p.1))

/-- The instruction the decoder reads from a table word: the word is the frame value, bit 0 its least significant
bit (R8), under the default OPCODE_TABLE (R75), which is what spec/opcode_table.json lists. -/
def decodeTableWord (nbits w : Nat) : Option Instr :=
  match lengthOf (w % 2 ^ nbits) with
  | some (n, org) =>
    match decodeFrame Config.defaultOpcodes org n (BitVec.ofNat 32 (w % 2 ^ nbits)) with
    | .ok i => some i
    | .error _ => none
  | none => none

/-- The frame of an instruction, by the same tables (R105); a well-formed instruction loses no operand bit. -/
def encodeInstr (t : OpcodeTable) (i : Instr) : Frame :=
  packFrame t i.org i.command i.addr i.data

/-- The command-port transfer of an instruction, with `rst = 0` (R70, R81). -/
def Instr.transfer (i : Instr) : HostInput where
  rst := false
  org := i.org.level
  cmdValid := true
  cmdOp := i.command.code
  cmdAddr := i.addr
  cmdData := i.data

end Sys2Proof
end

