-- ==== Sys2Proof/Machine/State.lean ====
section
/-! DEFINITION. The machine's state (10_state.md, R20 to R38), its reset value, and the reasons a step stops. -/

namespace Sys2Proof.Machine

/-- The sequencing states of R27. PHASE values 9 to 15 are left out of the type, as R27 allows (log entry 6). -/
inductive Phase where
  | idle
  | setup
  | txl
  | txh
  | dml
  | dmh
  | rxl
  | rxh
  | hold
  deriving DecidableEq, Repr

/-- The levels of the four output lines in one tick (R24, R25). -/
structure Pins where
  cs : Level
  act : Level
  clk : Level
  dout : Level
  deriving DecidableEq, Repr

/-- The CORE's registers (R26 to R34), the parameters it is built with (R6), and the environment's inputs, which
the step reads one tick at a time. -/
structure State where
  /-- The parameters of R6, fixed for the machine. -/
  cfg : Params
  /-- ORG, 1 bit (R26). -/
  org : Org
  /-- PHASE, 4 bits (R27). -/
  phase : Phase
  /-- TIMER, 16 bits (R28). -/
  timer : BitVec 16
  /-- SR, 32 bits (R29). -/
  sr : FrameWord
  /-- BITCNT, 6 bits (R30). -/
  bitcnt : BitVec 6
  /-- ISREAD, 1 bit (R32). -/
  isread : Bool
  /-- RXCNT, 5 bits (R32). -/
  rxcnt : BitVec 5
  /-- RXACC, 16 bits (R32). -/
  rxacc : DataWord
  /-- RDATA, 16 bits (R34). -/
  rdata : DataWord
  /-- ERRCODE, 2 bits (R34). -/
  errcode : BitVec 2
  /-- RSPV, 1 bit (R34). -/
  rspv : Bool
  /-- The environment's: what the host drives in this tick and the following ones (R21, R23, R225; log entry 3). -/
  host : List HostInput
  /-- The environment's: the levels the device drives on DIN in this tick and the following ones (R24, R226; log entry 3). -/
  din : List Level
  /-- The model's own: the ticks taken so far, which a free value is drawn at (log entry 4). -/
  tick : Nat
  deriving DecidableEq, Repr

/-- Why the machine stops with a fault: never. The CORE has no fault and no unrecoverable condition (R214); its one
exception, InvalidArgument, is a next state (R212). -/
inductive Fault where
  deriving DecidableEq, Repr

/-- Why a step has no meaning. -/
inductive Refusal where
  /-- Raised by `exec` for an instruction without a meaning yet: none is left in this model. Safe. -/
  | notModelled (mnemonic : String)
  /-- Raised by `step` where a parameter is outside its legal range: such a value is not a configuration of this
  hardware, and a model refuses it (R6). Safe. -/
  | illegalConfiguration
  deriving DecidableEq, Repr

/-- The state right after a reset under the strap value `org` (R38), with a configuration and an environment. -/
def State.resetWith (cfg : Params) (org : Org) (host : List HostInput) (din : List Level) (tick : Nat) : State where
  cfg := cfg
  org := org
  phase := .idle
  timer := 0
  sr := 0
  bitcnt := 0
  isread := false
  rxcnt := 0
  rxacc := 0
  rdata := 0
  errcode := 0
  rspv := false
  host := host
  din := din
  tick := tick

/-- The machine right after reset (R38) in the reference configuration (R6), nothing listed of the environment.
ORG resets to the strap's level, which the spec leaves to the host: 0 = Eight here (DESIGN CHOICE, log entry 5). -/
def State.reset : State := State.resetWith Config.default .eight [] [] 0

end Sys2Proof.Machine
end

