-- ==== Sys2Proof/Machine/Flags.lean ====
section
/-! DEFINITION. The status bits: ERRCODE and RSPV (R34, R37), and the status views BUSY and the response port (R22, R35). -/

namespace Sys2Proof.Machine

/-- A response: ERRCODE takes the code, and RSPV is 1 in the next tick (R34). -/
def State.respond (code : BitVec 2) (s : State) : State := { s with errcode := code, rspv := true }

/-- RSPV is 0 in every tick but the one after a completion or a rejection (R34, R151). -/
def State.clearResponse (s : State) : State := { s with rspv := false }

/-- BUSY = (PHASE != IDLE) (R35). -/
def State.busy (s : State) : Bool := s.phase != .idle

/-- The error indication ERRCODE != 0 (R37). -/
def State.errorIndication (s : State) : Bool := s.errcode != 0

/-- `rsp_valid` = RSPV (R22), in every tick: `rst` does not mask the response port. DESIGN CHOICE, unsafe (log entry 23):
D13's 'During reset all outputs are 0' may be read to mask it, and R240 names only CS, ACT, CLK, DOUT and `cmd_ready`. -/
def State.rspValid (s : State) : Level := s.rspv

/-- `rsp_err` = ERRCODE (R22), not masked by `rst` (log entry 23). -/
def State.rspErr (s : State) : BitVec 2 := s.errcode

/-- `rsp_rdata` = RDATA (R22), not masked by `rst` (log entry 23). -/
def State.rspRdata (s : State) : DataWord := s.rdata

end Sys2Proof.Machine
end

