-- ==== Sys2Proof/Machine/Operands.lean ====
section
/-! DEFINITION. The Command Encoder (40_encoder.md): validation of the operands and the packing of the frame. -/

namespace Sys2Proof.Machine

/-- The operand of a command is out of range: the command uses it, and it does not fit its field. -/
def outOfRange (uses : Bool) (v : Operand) (width : Nat) : Bool := uses && !fits v width

/-- Address and data validation of a command, in the priority ADDRESS, DATA (R102 to R104). -/
def validate (org : Org) (c : Command) (addr data : Operand) : Option Cause :=
  if outOfRange c.usesAddr addr org.addrWidth then some .address
  else if outOfRange c.usesData data org.wordWidth then some .data
  else none

/-- Encode (R100): the frame of a command-port transfer, or the cause of its rejection. OPCODE comes first (R104). -/
def encode (t : OpcodeTable) (org : Org) (op : BitVec 3) (addr data : Operand) : Except Cause Frame :=
  match Command.ofCode op with
  | none => .error .opcode
  | some c =>
    match validate org c addr data with
    | some cause => .error cause
    | none => .ok (packFrame t org c addr data)

end Sys2Proof.Machine
end

