-- ==== Sys2Proof/Machine/Ops.lean ====
section
/-! DEFINITION. The shared operations of a tick: the environment's inputs, the acceptance of a command, its rejection
(the CORE's one exception), reset, and the entry and the count-down of a phase. -/

namespace Sys2Proof.Machine

/-! ### The environment -/

/-- What the host drives `k` ticks from now: the listed input, or a free value where none is listed. -/
def State.hostAt (s : State) (k : Nat) : HostInput := s.host[k]?.getD (Config.freeHost (s.tick + k))

/-- The level on DIN `k` ticks from now: the listed level, or the oracle draw of R10. -/
def State.dinAt (s : State) (k : Nat) : Level := s.din[k]?.getD (Config.freeDin (s.tick + k))

/-- One tick of the environment passes. -/
def State.passTick (s : State) : State := { s with host := s.host.tail, din := s.din.tail, tick := s.tick + 1 }

/-- `k` ticks of the environment pass. -/
def State.passTicks (k : Nat) (s : State) : State :=
  { s with host := s.host.drop k, din := s.din.drop k, tick := s.tick + k }

/-! ### The command port -/

/-- `cmd_ready = (PHASE == IDLE) and (rst == 0)` (R21, R35). -/
def State.cmdReady (s : State) : Level := !s.busy && !(s.hostAt 0).rst

/-- A command is accepted at the end of a tick with `cmd_valid = 1` and `cmd_ready = 1` (R21). -/
def State.accepts (s : State) : Bool := s.cmdReady && (s.hostAt 0).cmdValid

/-! ### Phases -/

/-- A phase of duration `d` is entered: `TIMER <- d - 1` (R28). -/
def State.enter (p : Phase) (d : Nat) (s : State) : State := { s with phase := p, timer := BitVec.ofNat 16 (d - 1) }

/-- A tick of a timed phase (R28): count TIMER down, or end the phase where it is 0. -/
def State.timed (atEnd : State → State) (s : State) : State :=
  if 0 < s.timer then { s with timer := s.timer - 1 } else atEnd s

/-- Duration of each timed phase (R28); IDLE has none. -/
def Phase.duration (ph : Phase) (p : Params) : Nat :=
  match ph with
  | .idle => 0
  | .setup => p.tSetup
  | .hold => p.tHold
  | .txl | .txh | .dml | .dmh | .rxl | .rxh => p.tHalf

/-! ### Acceptance, rejection, reset -/

/-- InvalidArgument, the CORE's only exception (R210, R212): ERRCODE takes the cause and RSPV is 1; PHASE stays IDLE
and no other register changes. Nothing is saved and control goes nowhere (R216), so nothing returns from it (R217). -/
def State.reject (cause : Cause) (s : State) : State := s.respond cause.code

/-- A command whose encoding succeeded is loaded (R151): the frame, its bit-count, the read datapath, and SETUP. -/
def State.load (f : Frame) (isRead : Bool) (s : State) : State :=
  State.enter .setup s.cfg.tSetup
    { s with
      sr := f.value
      bitcnt := BitVec.ofNat 6 f.bits
      isread := isRead
      rxcnt := if isRead then BitVec.ofNat 5 s.org.wordWidth else 0
      rxacc := 0
      rspv := false }

/-- The acceptance branch of the IDLE tick (R151): the encoder's answer is loaded or rejected. -/
def State.accept (op : BitVec 3) (addr data : Operand) (s : State) : State :=
  match encode s.cfg.opcodes s.org op addr data with
  | .error cause => s.reject cause
  | .ok f => s.load f (op == Command.read.code)

/-- Every register takes its reset value, and `ORG <- org` (R38, R240). -/
def State.resetRegisters (org : Org) (s : State) : State := State.resetWith s.cfg org s.host s.din s.tick

end Sys2Proof.Machine
end

