-- ==== Sys2Proof/Machine/Sequencer.lean ====
section
/-! DEFINITION. The sequencing FSM: the next state of each phase (R134, R135, R151 to R153, R182 to R184), and the tick
that takes no command, with reset before everything (R33, R240). -/

namespace Sys2Proof.Machine

/-- SETUP (R152). -/
def State.setupTick : State → State :=
  State.timed fun s =>
    if 0 < s.bitcnt then s.enter .txl s.cfg.tHalf
    else if s.isread then s.enter .dml s.cfg.tHalf
    else s.enter .hold s.cfg.tHold

/-- TXL, the low half of a frame bit (R134). -/
def State.txlTick : State → State :=
  State.timed fun s => s.enter .txh s.cfg.tHalf

/-- TXH, the high half of a frame bit (R135). -/
def State.txhTick : State → State :=
  State.timed fun s =>
    let t := { s with bitcnt := s.bitcnt - 1 }
    if 0 < s.bitcnt - 1 then t.enter .txl s.cfg.tHalf
    else if s.isread then t.enter .dml s.cfg.tHalf
    else t.enter .hold s.cfg.tHold

/-- DML, the low half of the dummy cycle (R182). -/
def State.dmlTick : State → State :=
  State.timed fun s => s.enter .dmh s.cfg.tHalf

/-- DMH, the high half of the dummy cycle (R182). -/
def State.dmhTick : State → State :=
  State.timed fun s => s.enter .rxl s.cfg.tHalf

/-- One sample shifted into the accumulator: `((RXACC << 1) | DIN)[15:0]` (R32, R183). -/
def shiftIn (acc : DataWord) (din : Level) : DataWord := (acc <<< 1) ||| (BitVec.ofBool din).setWidth 16

/-- The sample of R183, in the first tick of an RXL phase only. -/
def State.sample (s : State) : State :=
  if s.timer = BitVec.ofNat 16 (s.cfg.tHalf - 1) then { s with rxacc := shiftIn s.rxacc (s.dinAt 0) } else s

/-- RXL, the low half of a data cycle (R183). -/
def State.rxlTick (s : State) : State :=
  State.timed (fun s => s.enter .rxh s.cfg.tHalf) s.sample

/-- RXH, the high half of a data cycle (R184). -/
def State.rxhTick : State → State :=
  State.timed fun s =>
    let t := { s with rxcnt := s.rxcnt - 1 }
    if 0 < s.rxcnt - 1 then t.enter .rxl s.cfg.tHalf else t.enter .hold s.cfg.tHold

/-- `zext_16(RXACC[W-1:0])` (R185). -/
def readResult (org : Org) (acc : DataWord) : DataWord := (acc.setWidth org.wordWidth).setWidth 16

/-- HOLD (R153): at its end a Read writes RDATA, and every command responds with ERRCODE = 0. -/
def State.holdTick : State → State :=
  State.timed fun s =>
    State.respond 0
      { s with
        phase := .idle
        rdata := if s.isread then readResult s.org s.rxacc else s.rdata }

/-- The registers after a tick with `rst = 0` in which no command is accepted (R33). -/
def State.phaseTick (s : State) : State :=
  match s.phase with
  | .idle => s.clearResponse
  | .setup => s.setupTick
  | .txl => s.txlTick
  | .txh => s.txhTick
  | .dml => s.dmlTick
  | .dmh => s.dmhTick
  | .rxl => s.rxlTick
  | .rxh => s.rxhTick
  | .hold => s.holdTick

/-- A tick in which no command is accepted: reset takes precedence over every phase rule (R33, R240). -/
def State.plainTick (s : State) : State :=
  if (s.hostAt 0).rst then (s.resetRegisters (Org.ofLevel (s.hostAt 0).org)).passTick
  else s.phaseTick.passTick

/-- A tick in which a command is on the port: it is accepted where the CORE is ready (R151), and otherwise it is not
taken and changes no state (R154). -/
def State.commandTick (op : BitVec 3) (addr data : Operand) (s : State) : State :=
  if s.cmdReady then (s.accept op addr data).passTick else s.plainTick

end Sys2Proof.Machine
end

