-- ==== Sys2Proof/Machine/NonRead.lean ====
section
/-! DEFINITION. The commands that return no data (42_commands.md section 2). The meaning of a command is the tick in
which it is on the command port: the CORE takes it and starts its bus window, rejects it, or, where it is not ready,
does not take it (R151, R154). The window itself is the sequencer's, one tick a step (log entry 1). The frame is
encoded under the ORG register (R100), which every row of the same organization agrees with (log entry 9). -/

namespace Sys2Proof.Machine

/-- WriteDisable, x16 (R106, R160). -/
def execWriteDisableX16 (s : State) : Host.Outcome State Fault Refusal :=
  .next (s.commandTick Command.writeDisable.code 0 0)

/-- WriteAll, x16 (R107, R161). -/
def execWriteAllX16 (data : Operand) (s : State) : Host.Outcome State Fault Refusal :=
  .next (s.commandTick Command.writeAll.code 0 data)

/-- EraseAll, x16 (R108, R162). -/
def execEraseAllX16 (s : State) : Host.Outcome State Fault Refusal :=
  .next (s.commandTick Command.eraseAll.code 0 0)

/-- WriteEnable, x16 (R109, R163). -/
def execWriteEnableX16 (s : State) : Host.Outcome State Fault Refusal :=
  .next (s.commandTick Command.writeEnable.code 0 0)

/-- Write, x16 (R110, R164). -/
def execWriteX16 (addr data : Operand) (s : State) : Host.Outcome State Fault Refusal :=
  .next (s.commandTick Command.write.code addr data)

/-- Erase, x16 (R112, R165). -/
def execEraseX16 (addr : Operand) (s : State) : Host.Outcome State Fault Refusal :=
  .next (s.commandTick Command.erase.code addr 0)

/-- WriteDisable, x8 (R106, R160). -/
def execWriteDisableX8 (s : State) : Host.Outcome State Fault Refusal :=
  .next (s.commandTick Command.writeDisable.code 0 0)

/-- WriteAll, x8 (R107, R161). -/
def execWriteAllX8 (data : Operand) (s : State) : Host.Outcome State Fault Refusal :=
  .next (s.commandTick Command.writeAll.code 0 data)

/-- EraseAll, x8 (R108, R162). -/
def execEraseAllX8 (s : State) : Host.Outcome State Fault Refusal :=
  .next (s.commandTick Command.eraseAll.code 0 0)

/-- WriteEnable, x8 (R109, R163). -/
def execWriteEnableX8 (s : State) : Host.Outcome State Fault Refusal :=
  .next (s.commandTick Command.writeEnable.code 0 0)

/-- Write, x8 (R110, R164). -/
def execWriteX8 (addr data : Operand) (s : State) : Host.Outcome State Fault Refusal :=
  .next (s.commandTick Command.write.code addr data)

/-- Erase, x8 (R112, R165). -/
def execEraseX8 (addr : Operand) (s : State) : Host.Outcome State Fault Refusal :=
  .next (s.commandTick Command.erase.code addr 0)

end Sys2Proof.Machine
end

