-- ==== Sys2Proof/Machine/Read.lean ====
section
/-! DEFINITION. The Read command (43_read.md, R188). As for the other commands, the meaning is the tick in which the
command is on the port; the dummy cycle and the sampling are the sequencer's (R182 to R184). -/

namespace Sys2Proof.Machine

/-- Read, x16 (R111, R188). -/
def execReadX16 (addr : Operand) (s : State) : Host.Outcome State Fault Refusal :=
  .next (s.commandTick Command.read.code addr 0)

/-- Read, x8 (R111, R188). -/
def execReadX8 (addr : Operand) (s : State) : Host.Outcome State Fault Refusal :=
  .next (s.commandTick Command.read.code addr 0)

end Sys2Proof.Machine
end

