-- ==== Sys2Proof/Machine/Dispatch.lean ====
section
/-! DEFINITION. One arm for each instruction. -/

namespace Sys2Proof.Machine

def exec (i : Instr) (s : State) : Host.Outcome State Fault Refusal :=
  match i with
  | .writeDisableX16 => Sys2Proof.Machine.execWriteDisableX16 s
  | .writeAllX16 data => Sys2Proof.Machine.execWriteAllX16 data s
  | .eraseAllX16 => Sys2Proof.Machine.execEraseAllX16 s
  | .writeEnableX16 => Sys2Proof.Machine.execWriteEnableX16 s
  | .writeX16 addr data => Sys2Proof.Machine.execWriteX16 addr data s
  | .readX16 addr => Sys2Proof.Machine.execReadX16 addr s
  | .eraseX16 addr => Sys2Proof.Machine.execEraseX16 addr s
  | .writeDisableX8 => Sys2Proof.Machine.execWriteDisableX8 s
  | .writeAllX8 data => Sys2Proof.Machine.execWriteAllX8 data s
  | .eraseAllX8 => Sys2Proof.Machine.execEraseAllX8 s
  | .writeEnableX8 => Sys2Proof.Machine.execWriteEnableX8 s
  | .writeX8 addr data => Sys2Proof.Machine.execWriteX8 addr data s
  | .readX8 addr => Sys2Proof.Machine.execReadX8 addr s
  | .eraseX8 addr => Sys2Proof.Machine.execEraseX8 addr s

end Sys2Proof.Machine
end

