-- ==== Sys2Proof/Machine/Fetch.lean ====
section
/-! DEFINITION. Where an instruction comes from: the command port, in a tick that accepts (R21). There is no program,
pc or fetch (R31, R63, D29): the host's transfers are the program. -/

namespace Sys2Proof.Machine

/-- The instruction on the command port, decoded under ORG, where this tick accepts one (R21, R70). -/
def State.presented (s : State) : Option (Except DecodeError Instr) :=
  if s.accepts then some (decodePort s.org (s.hostAt 0).cmdOp (s.hostAt 0).cmdAddr (s.hostAt 0).cmdData) else none

/-- The tick that accepts the reserved code 7: InvalidArgument(OPCODE), before any bus activity (R71, R101, R212). -/
def State.reservedTick (s : State) : State :=
  s.commandTick (s.hostAt 0).cmdOp (s.hostAt 0).cmdAddr (s.hostAt 0).cmdData

/-- The reserved transfer: what stands for a table word that is no frame. -/
def reservedTransfer (org : Org) : HostInput where
  rst := false
  org := org.level
  cmdValid := true
  cmdOp := 7
  cmdAddr := 0
  cmdData := 0

/-- A transfer presented in this tick to a CORE of organization `org` that is in IDLE (R21, R26). -/
def State.present (org : Org) (x : HostInput) (s : State) : State :=
  { s with org := org, phase := .idle, host := x :: s.host.tail }

/-- The state in which the very next tick accepts an instruction of the table word, or the reserved code where the
word is no frame. -/
def State.presentWord (s : State) (nbits w : Nat) : State :=
  match decodeTableWord nbits w with
  | some i => s.present i.org i.transfer
  | none => s.present s.org (reservedTransfer s.org)

end Sys2Proof.Machine
end

