-- ==== Sys2Proof/Machine/Step.lean ====
section
/-! DEFINITION. One step is one tick of the CORE (R33, R220). -/

namespace Sys2Proof.Machine

/-- One tick: the instruction the port's transfer decodes to runs; the reserved code is rejected; and where no command
is accepted, the phase takes its tick. A configuration outside R6 is refused. -/
def step (s : State) : Host.Outcome State Fault Refusal :=
  if s.cfg.legal then
    match s.presented with
    | some (.ok i) => exec i s
    | some (.error _) => .next s.reservedTick
    | none => .next s.plainTick
  else .refused .illegalConfiguration

/-- The state whose next step runs the instruction of a table word: ORG is the row's organization, PHASE is IDLE, and
the host presents the instruction's transfer in this tick (log entry 11). -/
def State.withFetchWord (s : State) (nbits w : Nat) : State := s.presentWord nbits w

end Sys2Proof.Machine
end

