-- ==== Sys2Proof/Machine/Timing.lean ====
section
/-! DEFINITION. Durations, in ticks (R166, R186, R189, R252). Tick 0 is the acceptance tick. -/

namespace Sys2Proof.Machine

/-- The CLK pulses of a command: one for each frame bit (R136), and for Read one dummy and W data cycles (R187). -/
def clockPulses (org : Org) (c : Command) : Nat :=
  frameBits org c + (if c.isRead then 1 + org.wordWidth else 0)

/-- The ticks with CS = 1 of an accepted command: `T_SETUP + 2·N·T_HALF + T_HOLD` (R166), with N + 1 + W in the place
of N for Read (R189). -/
def csHighTicks (p : Params) (org : Org) (c : Command) : Nat :=
  p.tSetup + 2 * clockPulses org c * p.tHalf + p.tHold

/-- The tick of the `k`-th rising edge of CLK, k = 1, 2, … (R136, R186). -/
def edgeTick (p : Params) (k : Nat) : Nat := p.tSetup + 1 + (2 * k - 1) * p.tHalf

/-- The first tick of the RXL phase of data cycle `k`, in which sample b_k is taken (R183, R186). -/
def sampleTick (p : Params) (org : Org) (k : Nat) : Nat :=
  p.tSetup + 1 + 2 * (frameBits org .read + 1 + k) * p.tHalf

end Sys2Proof.Machine
end

