-- ==== Sys2Proof/Machine/Script.lean ====
section
/-! DEFINITION. Command scripts (R81, R82): the text of a line, and the command-port transfer it names. -/

namespace Sys2Proof.Machine

/-- One line of a command script (R81). -/
inductive Line where
  | org (o : Org)
  | writeDisable
  | writeAll (data : Operand)
  | eraseAll
  | writeEnable
  | write (addr data : Operand)
  | read (addr : Operand)
  | erase (addr : Operand)
  deriving DecidableEq, Repr

/-! ### The text of a script (R81, R82) -/

/-- The tokens of a line: words between blanks, each comma on its own; `;` starts a comment (R81). `cur` is the word
being read. -/
def tokens (cur : List Char) : List Char → List String
  | [] => if cur.isEmpty then [] else [String.ofList cur]
  | c :: cs =>
    let word := if cur.isEmpty then [] else [String.ofList cur]
    if c = ';' then word
    else if c = ' ' ∨ c = '\t' then word ++ tokens [] cs
    else if c = ',' then word ++ "," :: tokens [] cs
    else tokens (cur ++ [c]) cs

/-- The value of a digit, decimal or hexadecimal. -/
def digit (c : Char) : Option Nat :=
  if '0' ≤ c ∧ c ≤ '9' then some (c.toNat - '0'.toNat)
  else if 'a' ≤ c ∧ c ≤ 'f' then some (c.toNat - 'a'.toNat + 10)
  else if 'A' ≤ c ∧ c ≤ 'F' then some (c.toNat - 'A'.toNat + 10)
  else none

/-- Digits in a base, read on from `acc`. -/
def digits (base acc : Nat) : List Char → Option Nat
  | [] => some acc
  | c :: cs =>
    match digit c with
    | some d => if d < base then digits base (base * acc + d) cs else none
    | none => none

/-- An operand: an unsigned decimal or `0x` hexadecimal literal of up to 32 bits (R81). -/
def literal (t : String) : Option Operand :=
  let value :=
    match t.toList with
    | [] => none
    | '0' :: 'x' :: d :: ds => digits 16 0 (d :: ds)
    | ds => digits 10 0 ds
  match value with
  | some v => if v < 2 ^ 32 then some (BitVec.ofNat 32 v) else none
  | none => none

/-- The command a script's word names: a mnemonic of R81, or an alias of R82 (general knowledge, log entry 7). -/
def commandNamed (w : String) : Option Command :=
  if w = "WriteDisable" ∨ w = "EWDS" then some .writeDisable
  else if w = "WriteAll" ∨ w = "WRAL" then some .writeAll
  else if w = "EraseAll" ∨ w = "ERAL" then some .eraseAll
  else if w = "WriteEnable" ∨ w = "EWEN" then some .writeEnable
  else if w = "Write" ∨ w = "WRITE" then some .write
  else if w = "Read" ∨ w = "READ" then some .read
  else if w = "Erase" ∨ w = "ERASE" then some .erase
  else none

/-- A command with the operands its line gives (R81). -/
def Line.ofCommand (c : Command) (args : List String) : Option Line :=
  match c, args with
  | .writeDisable, [] => some .writeDisable
  | .writeAll, [d] => (literal d).map .writeAll
  | .eraseAll, [] => some .eraseAll
  | .writeEnable, [] => some .writeEnable
  | .write, [a, ",", d] =>
    match literal a, literal d with
    | some a, some d => some (.write a d)
    | _, _ => none
  | .read, [a] => (literal a).map .read
  | .erase, [a] => (literal a).map .erase
  | _, _ => none

/-- One line of text: nothing on a blank or comment line; an error where it is none of R81's forms. -/
def parseLine (text : String) : Except String (List Line) :=
  match tokens [] text.toList with
  | [] => .ok []
  | [".org", "x16"] => .ok [.org .sixteen]
  | [".org", "x8"] => .ok [.org .eight]
  | w :: args =>
    match commandNamed w with
    | some c =>
      match Line.ofCommand c args with
      | some l => .ok [l]
      | none => .error text
    | none => .error text

/-- The lines of a script, or the first line that is none (R81). -/
def parseScript : List String → Except String (List Line)
  | [] => .ok []
  | t :: ts =>
    match parseLine t, parseScript ts with
    | .ok l, .ok ls => .ok (l ++ ls)
    | .error e, _ => .error e
    | .ok _, .error e => .error e

/-- The host drives nothing: no reset and no command. -/
def quietInput (o : Org) : HostInput where
  rst := false
  org := o.level
  cmdValid := false
  cmdOp := 0
  cmdAddr := 0
  cmdData := 0

/-- A reset tick with the strap at `o` (R81 `.org`, R225). -/
def resetInput (o : Org) : HostInput := { quietInput o with rst := true }

/-- The instruction of a line under an organization; none for the strap line. -/
def Line.instr (o : Org) : Line → Option Instr
  | .org _ => none
  | .writeDisable => some (instrOf o .writeDisable 0 0)
  | .writeAll d => some (instrOf o .writeAll 0 d)
  | .eraseAll => some (instrOf o .eraseAll 0 0)
  | .writeEnable => some (instrOf o .writeEnable 0 0)
  | .write a d => some (instrOf o .write a d)
  | .read a => some (instrOf o .read a 0)
  | .erase a => some (instrOf o .erase a 0)

/-- Ticks from a command's acceptance to its response (R252): 1 where it is rejected. -/
def responseTicks (p : Params) (i : Instr) : Nat :=
  match encode p.opcodes i.org i.command.code i.addr i.data with
  | .ok _ => csHighTicks p i.org i.command + 1
  | .error _ => 1

/-- The host's inputs for a script (R81): each line presented in the first tick it may be, the tick of the previous
line's response (R253), and the host quiet between. -/
def scriptInputs (p : Params) : Org → List Line → List HostInput
  | _, [] => []
  | _, .org o' :: ls => resetInput o' :: scriptInputs p o' ls
  | o, l :: ls =>
    match l.instr o with
    | some i => (i.transfer :: List.replicate (responseTicks p i - 1) (quietInput o)) ++ scriptInputs p o ls
    | none => scriptInputs p o ls

end Sys2Proof.Machine
end

