-- ==== Sys2Proof/Machine/Pins.lean ====
section
/-! DEFINITION. The output function (R24, R25, R36, R240). -/

namespace Sys2Proof.Machine

/-- Every output line low: the idle levels of R12 and R36. -/
def Pins.low : Pins := ⟨false, false, false, false⟩

/-- The frame bit on DOUT, SR[BITCNT-1] (R36); free where BITCNT names no bit of SR (log entry 12). -/
def State.frameBit (s : State) : Level :=
  if 1 ≤ s.bitcnt.toNat ∧ s.bitcnt.toNat ≤ 32 then s.sr.getLsbD (s.bitcnt.toNat - 1) else Config.freeDout s.tick

/-- The outputs by PHASE, for `rst = 0` (the table of R36); ACT = CS in every row (R25). -/
def State.phasePins (s : State) : Pins :=
  match s.phase with
  | .idle => Pins.low
  | .setup => ⟨true, true, false, false⟩
  | .txl => ⟨true, true, false, s.frameBit⟩
  | .txh => ⟨true, true, true, s.frameBit⟩
  | .dml => ⟨true, true, false, false⟩
  | .dmh => ⟨true, true, true, false⟩
  | .rxl => ⟨true, true, false, false⟩
  | .rxh => ⟨true, true, true, false⟩
  | .hold => ⟨true, true, false, false⟩

/-- The output lines in this tick: all 0 while `rst = 1` (R36, R240). -/
def State.pins (s : State) : Pins := if (s.hostAt 0).rst then Pins.low else s.phasePins

/-- The PHASE register's value (R27). -/
def Phase.code : Phase → BitVec 4
  | .idle => 0
  | .setup => 1
  | .txl => 2
  | .txh => 3
  | .dml => 4
  | .dmh => 5
  | .rxl => 6
  | .rxh => 7
  | .hold => 8

end Sys2Proof.Machine
end

