-- ==== Sys2Proof/Machine/Trace.lean ====
section
/-! DEFINITION. The call-trace view (R10, R130, R150, R180): the sequence of line primitives of a command, its waveform
in ticks (R11, R157), and what a receiver sees at the rising edges of CLK. -/

namespace Sys2Proof.Machine

/-- The line-level primitives of R10. Set and sample take no time; `wait n` lets n ticks pass. -/
inductive BusOp where
  | setClk (l : Level)
  | setDout (l : Level)
  | setCs (l : Level)
  | setAct (l : Level)
  | sampleDin
  | wait (n : Nat)
  deriving DecidableEq, Repr

/-- Transmit(frame, n) (R130): n clock pulses, most significant bit first, then the idle tail (R133). -/
def transmitTrace (tHalf : Nat) (frame : FrameWord) : Nat → List BusOp
  | 0 => [.setDout false, .setClk false]
  | i + 1 =>
    [.setClk false, .setDout (frame.getLsbD i), .wait tHalf, .setClk true, .wait tHalf]
      ++ transmitTrace tHalf frame i

/-- The chip-select and activity lines around a command's bus window (R150, R180). -/
def openWindow (p : Params) : List BusOp := [.setAct true, .setCs true, .wait p.tSetup]

/-- The closing group of R150 and R180. -/
def closeWindow (p : Params) : List BusOp :=
  [.setDout false, .setClk false, .wait p.tHold, .setCs false, .setAct false]

/-- Execute(frame, n) (R150). -/
def executeTrace (p : Params) (f : Frame) : List BusOp :=
  openWindow p ++ transmitTrace p.tHalf f.value f.bits ++ closeWindow p

/-- The dummy cycle of R180: one full bit cycle with DOUT low and no sample. -/
def dummyTrace (p : Params) : List BusOp :=
  [.setClk false, .setDout false, .wait p.tHalf, .setClk true, .wait p.tHalf]

/-- The data cycles of R180: W of them, DIN sampled right after CLK falls. -/
def dataTrace (p : Params) : Nat → List BusOp
  | 0 => []
  | w + 1 => [.setClk false, .sampleDin, .wait p.tHalf, .setClk true, .wait p.tHalf] ++ dataTrace p w

/-- ReadExec(a) (R180), for the Read frame it encodes. -/
def readTrace (p : Params) (org : Org) (f : Frame) : List BusOp :=
  openWindow p ++ transmitTrace p.tHalf f.value f.bits ++ dummyTrace p ++ dataTrace p org.wordWidth ++ closeWindow p

/-- The trace of an accepted command. -/
def commandTrace (p : Params) (org : Org) (c : Command) (f : Frame) : List BusOp :=
  if c.isRead then readTrace p org f else executeTrace p f

/-- The levels after a primitive. -/
def Pins.apply (v : Pins) : BusOp → Pins
  | .setClk l => { v with clk := l }
  | .setDout l => { v with dout := l }
  | .setCs l => { v with cs := l }
  | .setAct l => { v with act := l }
  | .sampleDin => v
  | .wait _ => v

/-- The levels tick by tick (R157): a group of zero-time primitives takes effect at the Wait that follows it. -/
def waveform (v : Pins) : List BusOp → List Pins
  | [] => []
  | .wait n :: ops => List.replicate n v ++ waveform v ops
  | op :: ops => waveform (v.apply op) ops

/-- The instants of the SampleDIN primitives, in ticks from `now` (R10, R11). -/
def sampleTimes (now : Nat) : List BusOp → List Nat
  | [] => []
  | .sampleDin :: ops => now :: sampleTimes now ops
  | .wait n :: ops => sampleTimes (now + n) ops
  | _ :: ops => sampleTimes now ops

/-- The accumulation of R180: `acc <- ((acc << 1) | b_k)[W-1:0]`, from 0. -/
def accumulate (w : Nat) (bits : List Level) : BitVec w :=
  bits.foldl (fun acc b => (acc <<< 1) ||| (BitVec.ofBool b).setWidth w) 0

/-- The DOUT levels at the rising edges of CLK, in order: what a device samples (R131, R226(a)). -/
def doutAtEdges (clk : Level) : List Pins → List Level
  | [] => []
  | v :: vs => (if !clk && v.clk then [v.dout] else []) ++ doutAtEdges v.clk vs

end Sys2Proof.Machine
end

