-- ==== Sys2Proof/Machine/Run.lean ====
section
/-! DEFINITION. Runs of several ticks: the state after k ticks, and the output lines over them. -/

namespace Sys2Proof.Machine

/-- `k` ticks. -/
abbrev run (k : Nat) (s : State) : Host.Outcome State Fault Refusal := Sys2Proof.core.run k s

/-- The output lines over the next `k` ticks, the present one first; the list ends where a step does not go on. -/
def pinsDuring : Nat → State → List Pins
  | 0, _ => []
  | k + 1, s =>
    s.pins :: (match step s with
      | .next t => pinsDuring k t
      | .fault _ => []
      | .refused _ => [])

/-- The host keeps `rst = 0` in this tick and the `k` that follow it. -/
def State.noResetFor (k : Nat) (s : State) : Prop := ∀ j, j ≤ k → (s.hostAt j).rst = false

end Sys2Proof.Machine
end

