-- ==== Sys2Proof/Safety.lean ====
section
/-! DEFINITION. What the claims are stated in: the machine's invariant (R39), the states a reset leads to, and the
premises the spec puts on the two environments (R225, R226, R246, R247). -/

namespace Sys2Proof.Machine

/-- A command of `n` frame bits is where its counters say (R39(b), (d), (e)): `rd` says that it is a Read. -/
def State.CountersAt (s : State) (n : Nat) (rd : Bool) : Prop :=
  match s.phase with
  | .idle => s.bitcnt.toNat = 0 ∧ s.rxcnt.toNat = 0
  | .setup => s.bitcnt.toNat = n ∧ s.rxcnt.toNat = (if rd then s.org.wordWidth else 0)
  | .txl | .txh =>
    1 ≤ s.bitcnt.toNat ∧ s.bitcnt.toNat ≤ n ∧ s.rxcnt.toNat = (if rd then s.org.wordWidth else 0)
  | .dml | .dmh => rd = true ∧ s.bitcnt.toNat = 0 ∧ s.rxcnt.toNat = s.org.wordWidth
  | .rxl | .rxh => rd = true ∧ s.bitcnt.toNat = 0 ∧ 1 ≤ s.rxcnt.toNat ∧ s.rxcnt.toNat ≤ s.org.wordWidth
  | .hold => s.bitcnt.toNat = 0 ∧ s.rxcnt.toNat = 0

/-- SR holds the frame of a command the encoder accepted under ORG, and the counters are at home in it. -/
def State.HoldsCommand (s : State) : Prop :=
  ∃ (c : Command) (addr data : Operand) (f : Frame),
    encode s.cfg.opcodes s.org c.code addr data = .ok f ∧ s.sr = f.value ∧ s.isread = c.isRead ∧ s.CountersAt f.bits c.isRead

/-- No command has been accepted since reset. -/
def State.HoldsNone (s : State) : Prop :=
  s.phase = .idle ∧ s.sr = 0 ∧ s.bitcnt = 0 ∧ s.rxcnt = 0 ∧ s.isread = false

/-- The machine's invariant (R39 and the facts it rests on). -/
structure State.Inv (s : State) : Prop where
  /-- The configuration is one of this hardware (R6). -/
  legal : s.cfg.legal = true
  /-- The counters and SR belong to the command in progress, or the last one (R29, R30, R32, R39). -/
  command : s.HoldsNone ∨ s.HoldsCommand
  /-- TIMER counts within the phase's duration (R28). -/
  timer : s.phase ≠ .idle → s.timer.toNat < s.phase.duration s.cfg
  /-- A response is shown in IDLE only (R34, R151). -/
  response : s.rspv = true → s.phase = .idle
  /-- RDATA is a word of W bits, zero-extended (R34). -/
  rdata : s.rdata.toNat < 2 ^ s.org.wordWidth

/-- A state that a run reaches from right after a reset, whatever the configuration, the strap and the environment
(R241: a claim takes "reset was applied" as a premise). -/
def State.ReachableFromReset (s : State) : Prop :=
  ∃ (p : Params) (o : Org) (host : List HostInput) (din : List Level) (n k : Nat),
    p.legal = true ∧ run k (State.resetWith p o host din n) = .next s

/-- The state one tick after the acceptance of a command (R151): its frame value and bit-count, whether it is a Read,
and how many samples it is to take. -/
def State.started (s : State) (value : FrameWord) (bits : BitVec 6) (rd : Bool) (samples : BitVec 5) : State :=
  { s with
    sr := value
    bitcnt := bits
    isread := rd
    rxcnt := samples
    rxacc := 0
    rspv := false
    phase := .setup
    timer := BitVec.ofNat 16 (s.cfg.tSetup - 1)
    host := s.host.tail
    din := s.din.tail
    tick := s.tick + 1 }

/-- The state one tick after a rejection with a cause code (R212). -/
def State.turnedAway (s : State) (code : BitVec 2) : State :=
  { s with errcode := code, rspv := true, host := s.host.tail, din := s.din.tail, tick := s.tick + 1 }

/-- The state at the successful response of the command in progress, `k` ticks from now (R153, R185). -/
def State.finished (s : State) (k : Nat) (acc rdata : DataWord) : State :=
  { s with
    phase := .idle
    timer := 0
    bitcnt := 0
    rxcnt := 0
    rxacc := acc
    rdata := rdata
    errcode := 0
    rspv := true
    host := s.host.drop k
    din := s.din.drop k
    tick := s.tick + k }

/-- A state as a reset tick leaves it (R38, R240): every register at its reset value, ORG from the strap. -/
def State.afterReset (s : State) (o : Org) : State :=
  { s with
    org := o
    phase := .idle
    timer := 0
    sr := 0
    bitcnt := 0
    isread := false
    rxcnt := 0
    rxacc := 0
    rdata := 0
    errcode := 0
    rspv := false
    host := s.host.tail
    din := s.din.tail
    tick := s.tick + 1 }

/-- The samples a Read accepted now takes, in order: DIN in the first tick of each RXL phase (R183, R186). -/
def State.samples (s : State) : List Level :=
  (List.range s.org.wordWidth).map (fun k => s.dinAt (sampleTick s.cfg s.org k))

/-- From now, the machine is in phase `p` for exactly `n` ticks (R28). -/
def State.StaysFor (s : State) (p : Phase) (n : Nat) : Prop :=
  (∀ j, j < n → ∃ t, run j s = .next t ∧ t.phase = p) ∧ ∃ t, run n s = .next t ∧ t.phase ≠ p

/-- The device's word on DIN for a Read accepted now (R226(b), R186): in the low phase after rising edge N+1+j it holds
word bit W-1-j. The dummy bit and every other level stay open (R190), so this is a weaker premise than the contract. -/
def State.DevicePresents (s : State) (word : DataWord) : Prop :=
  ∀ j, j < s.org.wordWidth → ∀ t,
    edgeTick s.cfg (frameBits s.org .read + 1 + j) + s.cfg.tHalf ≤ t →
    t < edgeTick s.cfg (frameBits s.org .read + 2 + j) →
    s.dinAt t = word.getLsbD (s.org.wordWidth - 1 - j)

/-- The device's organization is ORG (R226(d), R247): the host's duty, which the CORE cannot check. -/
def State.OrgAgrees (s : State) (device : Org) : Prop := s.org = device

/-- A wait of `k` ticks after the response of a Write, Erase, WriteAll or EraseAll covers T_WP (R246): the host's duty. -/
def coversWriteTime (k : Nat) : Prop := Config.writeTime ≤ k

end Sys2Proof.Machine
end

