-- ==== Sys2Proof/Certificates/Slice0/Obligations.lean ====
section
/-! DEFINITION. The statements for the provers. -/

open Sys2Proof Sys2Proof.Machine

/-! ### Encodings -/

/-- R77, R83: words written out bit by bit from the pattern strings, one for each row of the table. The default
opcode values are the spec's from general knowledge (log entry 7); a bare word's bit-count is told by its start bit (log
entry 16). -/
def Obligations.SpecFrameWordsDecode : Prop :=
  decodeTableWord 16 0b100000000 = some .writeDisableX16 ∧
  decodeTableWord 32 0b1000100000000000010100101 = some (.writeAllX16 0xA5) ∧
  decodeTableWord 16 0b100101111 = some .eraseAllX16 ∧
  decodeTableWord 16 0b100110000 = some .writeEnableX16 ∧
  decodeTableWord 32 0b1010001011011111011101111 = some (.writeX16 0x05 0xBEEF) ∧
  decodeTableWord 16 0b110111111 = some (.readX16 0x3F) ∧
  decodeTableWord 16 0b111000101 = some (.eraseX16 0x05) ∧
  decodeTableWord 16 0b1000000000 = some .writeDisableX8 ∧
  decodeTableWord 24 0b100011111111111111 = some (.writeAllX8 0xFF) ∧
  decodeTableWord 16 0b1001011111 = some .eraseAllX8 ∧
  decodeTableWord 16 0b1001100000 = some .writeEnableX8 ∧
  decodeTableWord 24 0b101101010110101010 = some (.writeX8 0x55 0xAA) ∧
  decodeTableWord 16 0b1100101010 = some (.readX8 0x2A) ∧
  decodeTableWord 16 0b1111111111 = some (.eraseX8 0x7F)

/-- R83, R113(d), for every legal OPCODE_TABLE (R6): decoding the frame of a well-formed instruction gives it back. -/
def Obligations.WellFormedFramesRoundTrip : Prop :=
  ∀ (t : OpcodeTable) (i : Instr), t.legal = true → i.wellFormed = true →
    decodeFrame t i.org (encodeInstr t i).bits (encodeInstr t i).value = .ok i

/-- R53, R73: the same through the wire string, most significant bit first. -/
def Obligations.WireStringsRoundTrip : Prop :=
  ∀ (t : OpcodeTable) (i : Instr), t.legal = true → i.wellFormed = true →
    (encodeInstr t i).wire.length = frameBits i.org i.command ∧ decodeWire t i.org (encodeInstr t i).wire = .ok i

/-- R78, R83: a frame that decodes is the frame of the instruction it decodes to, once the don't-care bits (the AW-2 bits
below EXT) are sent as 0; the instruction is well-formed and of the organization the frame was received under. -/
def Obligations.DecodedFramesReencode : Prop :=
  ∀ (t : OpcodeTable) (org : Org) (n : Nat) (f : FrameWord) (i : Instr), t.legal = true → decodeFrame t org n f = .ok i →
    i.wellFormed = true ∧ i.org = org ∧ (encodeInstr t i).bits = n ∧
    (i.command.usesAddr = true → (encodeInstr t i).value = f) ∧
    (i.command.usesAddr = false →
      (encodeInstr t i).value =
        f &&& ~~~(BitVec.ofNat 32 (2 ^ (org.addrWidth - 2) - 1) <<< (if i.command.usesData then org.wordWidth else 0)))

/-- R71: the command codes, in both organizations, and the rejection of the reserved code. -/
def Obligations.CommandCodesAndReservedCode : Prop :=
  (∀ a d : Operand,
    decodePort .sixteen 0 a d = .ok .writeDisableX16 ∧ decodePort .eight 0 a d = .ok .writeDisableX8 ∧
    decodePort .sixteen 1 a d = .ok (.writeAllX16 d) ∧ decodePort .eight 1 a d = .ok (.writeAllX8 d) ∧
    decodePort .sixteen 2 a d = .ok .eraseAllX16 ∧ decodePort .eight 2 a d = .ok .eraseAllX8 ∧
    decodePort .sixteen 3 a d = .ok .writeEnableX16 ∧ decodePort .eight 3 a d = .ok .writeEnableX8 ∧
    decodePort .sixteen 4 a d = .ok (.writeX16 a d) ∧ decodePort .eight 4 a d = .ok (.writeX8 a d) ∧
    decodePort .sixteen 5 a d = .ok (.readX16 a) ∧ decodePort .eight 5 a d = .ok (.readX8 a) ∧
    decodePort .sixteen 6 a d = .ok (.eraseX16 a) ∧ decodePort .eight 6 a d = .ok (.eraseX8 a) ∧
    decodePort .sixteen 7 a d = .error .reservedCode ∧ decodePort .eight 7 a d = .error .reservedCode) ∧
  (∀ s : State, s.cfg.legal = true → s.accepts = true → (s.hostAt 0).cmdOp = 7 →
    s.pins = ⟨false, false, false, false⟩ ∧ step s = .next (s.turnedAway 3) ∧
    (s.turnedAway 3).pins = ⟨false, false, false, false⟩)

/-- R76, R83: the layout table under the default OPCODE_TABLE (general knowledge, log entry 7):
bit-count, pattern, mask, address and data offsets. -/
def Obligations.LayoutTableRows : Prop :=
  layout Config.defaultOpcodes .sixteen .writeDisable = ⟨9, 0x100, 0x1F0, none, none⟩ ∧
  layout Config.defaultOpcodes .sixteen .writeAll = ⟨25, 0x1100000, 0x1F00000, none, some 0⟩ ∧
  layout Config.defaultOpcodes .sixteen .eraseAll = ⟨9, 0x120, 0x1F0, none, none⟩ ∧
  layout Config.defaultOpcodes .sixteen .writeEnable = ⟨9, 0x130, 0x1F0, none, none⟩ ∧
  layout Config.defaultOpcodes .sixteen .write = ⟨25, 0x1400000, 0x1C00000, some 16, some 0⟩ ∧
  layout Config.defaultOpcodes .sixteen .read = ⟨9, 0x180, 0x1C0, some 0, none⟩ ∧
  layout Config.defaultOpcodes .sixteen .erase = ⟨9, 0x1C0, 0x1C0, some 0, none⟩ ∧
  layout Config.defaultOpcodes .eight .writeDisable = ⟨10, 0x200, 0x3E0, none, none⟩ ∧
  layout Config.defaultOpcodes .eight .writeAll = ⟨18, 0x22000, 0x3E000, none, some 0⟩ ∧
  layout Config.defaultOpcodes .eight .eraseAll = ⟨10, 0x240, 0x3E0, none, none⟩ ∧
  layout Config.defaultOpcodes .eight .writeEnable = ⟨10, 0x260, 0x3E0, none, none⟩ ∧
  layout Config.defaultOpcodes .eight .write = ⟨18, 0x28000, 0x38000, some 8, some 0⟩ ∧
  layout Config.defaultOpcodes .eight .read = ⟨10, 0x300, 0x380, some 0, none⟩ ∧
  layout Config.defaultOpcodes .eight .erase = ⟨10, 0x380, 0x380, some 0, none⟩

/-- R101 to R104: which cause the encoder reports, that an operand is not examined where the command does not use it, and
the cause codes; for any OPCODE_TABLE. -/
def Obligations.OperandValidation : Prop :=
  ∀ (t : OpcodeTable) (org : Org) (op : BitVec 3) (a d : Operand),
    (op = 7 → encode t org op a d = .error .opcode) ∧
    (op = 4 ∨ op = 5 ∨ op = 6 → (if org = .sixteen then 63 else 127) < a.toNat →
      encode t org op a d = .error .address) ∧
    (op = 1 ∨ op = 4 ∧ a.toNat ≤ (if org = .sixteen then 63 else 127) →
      (if org = .sixteen then 0xFFFF else 0xFF) < d.toNat → encode t org op a d = .error .data) ∧
    (op = 0 ∨ op = 1 ∨ op = 2 ∨ op = 3 → ∀ a', encode t org op a' d = encode t org op a d) ∧
    (op = 0 ∨ op = 2 ∨ op = 3 ∨ op = 5 ∨ op = 6 → ∀ d', encode t org op a d' = encode t org op a d) ∧
    Cause.code .address = 1 ∧ Cause.code .data = 2 ∧ Cause.code .opcode = 3

/-- R106 (EraseAll and WriteEnable likewise, R108 and R109): the frames of the three commands without operands, whatever
stands on the operand ports (default opcode values: general knowledge, log entry 7). -/
def Obligations.EncodeCommandsWithoutOperands : Prop :=
  ∀ a d : Operand,
    encode Config.defaultOpcodes .sixteen 0 a d = .ok ⟨0x100, 9⟩ ∧ encode Config.defaultOpcodes .eight 0 a d = .ok ⟨0x200, 10⟩ ∧
    encode Config.defaultOpcodes .sixteen 2 a d = .ok ⟨0x120, 9⟩ ∧ encode Config.defaultOpcodes .eight 2 a d = .ok ⟨0x240, 10⟩ ∧
    encode Config.defaultOpcodes .sixteen 3 a d = .ok ⟨0x130, 9⟩ ∧ encode Config.defaultOpcodes .eight 3 a d = .ok ⟨0x260, 10⟩

/-- R107: WriteAll (default opcode values: general knowledge, log entry 7). -/
def Obligations.EncodeWriteAll : Prop :=
  ∀ a d : Operand,
    (d.toNat < 2 ^ 16 → encode Config.defaultOpcodes .sixteen 1 a d = .ok ⟨0x1100000 ||| d, 25⟩) ∧
    (2 ^ 16 ≤ d.toNat → encode Config.defaultOpcodes .sixteen 1 a d = .error .data) ∧
    (d.toNat < 2 ^ 8 → encode Config.defaultOpcodes .eight 1 a d = .ok ⟨0x22000 ||| d, 18⟩) ∧
    (2 ^ 8 ≤ d.toNat → encode Config.defaultOpcodes .eight 1 a d = .error .data) ∧
    encode Config.defaultOpcodes .eight 1 a 0xA5 = .ok ⟨0x220A5, 18⟩

/-- R110: Write. -/
def Obligations.EncodeWrite : Prop :=
  ∀ a d : Operand,
    (a.toNat < 2 ^ 6 → d.toNat < 2 ^ 16 →
      encode Config.defaultOpcodes .sixteen 4 a d = .ok ⟨0x1400000 ||| a <<< 16 ||| d, 25⟩) ∧
    (2 ^ 6 ≤ a.toNat → encode Config.defaultOpcodes .sixteen 4 a d = .error .address) ∧
    (a.toNat < 2 ^ 6 → 2 ^ 16 ≤ d.toNat → encode Config.defaultOpcodes .sixteen 4 a d = .error .data) ∧
    (a.toNat < 2 ^ 7 → d.toNat < 2 ^ 8 →
      encode Config.defaultOpcodes .eight 4 a d = .ok ⟨0x28000 ||| a <<< 8 ||| d, 18⟩) ∧
    (2 ^ 7 ≤ a.toNat → encode Config.defaultOpcodes .eight 4 a d = .error .address) ∧
    (a.toNat < 2 ^ 7 → 2 ^ 8 ≤ d.toNat → encode Config.defaultOpcodes .eight 4 a d = .error .data) ∧
    encode Config.defaultOpcodes .sixteen 4 0x3F 0xFFFF = .ok ⟨0x17FFFFF, 25⟩ ∧
    encode Config.defaultOpcodes .eight 4 0x7F 0xFF = .ok ⟨0x2FFFF, 18⟩ ∧
    encode Config.defaultOpcodes .sixteen 4 0x05 0xBEEF = .ok ⟨0x145BEEF, 25⟩

/-- R111 and R112: Read and Erase; the data port is ignored (default opcode values: general knowledge, log entry 7). -/
def Obligations.EncodeReadAndErase : Prop :=
  ∀ a d : Operand,
    (a.toNat < 2 ^ 6 → encode Config.defaultOpcodes .sixteen 5 a d = .ok ⟨0x180 ||| a, 9⟩) ∧
    (2 ^ 6 ≤ a.toNat → encode Config.defaultOpcodes .sixteen 5 a d = .error .address) ∧
    (a.toNat < 2 ^ 7 → encode Config.defaultOpcodes .eight 5 a d = .ok ⟨0x300 ||| a, 10⟩) ∧
    (2 ^ 7 ≤ a.toNat → encode Config.defaultOpcodes .eight 5 a d = .error .address) ∧
    (a.toNat < 2 ^ 6 → encode Config.defaultOpcodes .sixteen 6 a d = .ok ⟨0x1C0 ||| a, 9⟩) ∧
    (2 ^ 6 ≤ a.toNat → encode Config.defaultOpcodes .sixteen 6 a d = .error .address) ∧
    (a.toNat < 2 ^ 7 → encode Config.defaultOpcodes .eight 6 a d = .ok ⟨0x380 ||| a, 10⟩) ∧
    (2 ^ 7 ≤ a.toNat → encode Config.defaultOpcodes .eight 6 a d = .error .address) ∧
    encode Config.defaultOpcodes .sixteen 5 0x05 d = .ok ⟨0x185, 9⟩ ∧
    encode Config.defaultOpcodes .eight 6 0x7F d = .ok ⟨0x3FF, 10⟩

/-- R105, for every legal OPCODE_TABLE: the OR of pattern, address and data is the concatenation of the fields of R74. -/
def Obligations.FramesAreConcatenations : Prop :=
  ∀ (t : OpcodeTable) (org : Org) (c : Command) (a d : Operand) (f : Frame), t.legal = true →
    encode t org c.code a d = .ok f →
    f.value =
      match (t.entry c).ext, c.usesData with
      | none, true =>
        ((1#1 ++ (t.entry c).op ++ a.setWidth org.addrWidth ++ d.setWidth org.wordWidth).setWidth 32 : FrameWord)
      | none, false => (1#1 ++ (t.entry c).op ++ a.setWidth org.addrWidth).setWidth 32
      | some x, true =>
        (1#1 ++ (t.entry c).op ++ x ++ BitVec.zero (org.addrWidth - 2) ++ d.setWidth org.wordWidth).setWidth 32
      | some x, false => (1#1 ++ (t.entry c).op ++ x ++ BitVec.zero (org.addrWidth - 2)).setWidth 32

/-- R113(a) to (e), the spec's own derivation, for every legal OPCODE_TABLE. -/
def Obligations.EncoderProperties : Prop :=
  ∀ (t : OpcodeTable) (org : Org) (c : Command) (a d : Operand) (f : Frame), t.legal = true →
    encode t org c.code a d = .ok f →
    f.bits = (match org, c.usesData with
      | .sixteen, false => 9
      | .sixteen, true => 25
      | .eight, false => 10
      | .eight, true => 18) ∧
    f.value.toNat < 2 ^ f.bits ∧ (∀ j, f.bits ≤ j → f.value.getLsbD j = false) ∧
    f.value.getLsbD (f.bits - 1) = true ∧
    (c.usesAddr = true →
      ((f.value >>> (if c.usesData then org.wordWidth else 0)).setWidth org.addrWidth).setWidth 32 = a) ∧
    (c.usesData = true → (f.value.setWidth org.wordWidth).setWidth 32 = d) ∧
    decodeFrame t org f.bits f.value = .ok (instrOf org c a d) ∧
    (∀ a' d' : Operand, (c.usesAddr = true → a' = a) → (c.usesData = true → d' = d) →
      encode t org c.code a' d' = .ok f)

/-- R79, the spec's own derivation, under the default OPCODE_TABLE (log entry 7): the bit-count by its formula, and what
the first five bits on the wire tell. -/
def Obligations.FrameLengthFromFirstFiveBits : Prop :=
  ∀ (org : Org) (c : Command) (a d : Operand) (f : Frame), encode Config.defaultOpcodes org c.code a d = .ok f →
    f.bits = 3 + org.addrWidth + (if c = .write ∨ c = .writeAll then org.wordWidth else 0) ∧
    (c = .write ∨ c = .writeAll ↔
      f.wire.take 3 = [true, false, true] ∨ f.wire.take 5 = [true, false, false, false, true])

/-- R6: the legal configurations. -/
def Obligations.LegalConfigurations : Prop :=
  ∀ p : Params, p.legal = true ↔
    (1 ≤ p.tHalf ∧ p.tHalf ≤ 65535) ∧ (1 ≤ p.tSetup ∧ p.tSetup ≤ 65535) ∧ (1 ≤ p.tHold ∧ p.tHold ≤ 65535) ∧
    (p.opcodes.writeDisable.start = 1 ∧ p.opcodes.writeAll.start = 1 ∧ p.opcodes.eraseAll.start = 1 ∧
      p.opcodes.writeEnable.start = 1 ∧ p.opcodes.write.start = 1 ∧ p.opcodes.read.start = 1 ∧ p.opcodes.erase.start = 1) ∧
    (∃ (op op' op'' : BitVec 2) (x0 x1 x2 x3 : BitVec 2),
      p.opcodes.writeDisable = ⟨1, op, some x0⟩ ∧ p.opcodes.writeAll = ⟨1, op, some x1⟩ ∧
      p.opcodes.eraseAll = ⟨1, op, some x2⟩ ∧ p.opcodes.writeEnable = ⟨1, op, some x3⟩ ∧
      p.opcodes.write = ⟨1, 0b01#2, none⟩ ∧ p.opcodes.read = ⟨1, op', none⟩ ∧ p.opcodes.erase = ⟨1, op'', none⟩ ∧
      [op, 0b01#2, op', op''].Nodup ∧ [x0, x1, x2, x3].Nodup)

/-! ### The tick -/

/-- R6, R214: on a legal configuration every tick goes on, whatever the inputs; nothing faults. -/
def Obligations.EveryLegalTickGoesOn : Prop :=
  ∀ s : State, (s.cfg.legal = true → ∃ t, step s = .next t) ∧
    (s.cfg.legal = false → step s = .refused .illegalConfiguration) ∧ ∀ r, step s ≠ .fault r

/-- R21, R70: a tick that accepts runs the instruction its transfer decodes to; the transfer of a well-formed instruction
decodes to it under its organization. The third clause is the model's choice, no rule of the spec (log entry 11, DESIGN
CHOICE): the CORE has no fetch (R31, D29), and `withFetchWord` is the model's way to present a table word, which is then
run as the instruction `decodeTableWord` reads from it (log entry 16). -/
def Obligations.StepRunsThePresentedInstruction : Prop :=
  (∀ (s : State) (i : Instr), s.cfg.legal = true → s.phase = .idle → (s.hostAt 0).rst = false →
    (s.hostAt 0).cmdValid = true →
    decodePort s.org (s.hostAt 0).cmdOp (s.hostAt 0).cmdAddr (s.hostAt 0).cmdData = .ok i → step s = exec i s) ∧
  (∀ (s : State) (i : Instr), s.cfg.legal = true → s.phase = .idle → s.org = i.org → s.hostAt 0 = i.transfer →
    step s = exec i s) ∧
  (∀ (s : State) (n w : Nat) (i : Instr), s.cfg.legal = true → decodeTableWord n w = some i →
    step (s.withFetchWord n w) = exec i (s.withFetchWord n w))

/-- R33, R240: what a tick does where no command is accepted. -/
def Obligations.StepWithoutAcceptance : Prop :=
  ∀ s : State, s.cfg.legal = true →
    ((s.hostAt 0).rst = false → (s.phase ≠ .idle ∨ (s.hostAt 0).cmdValid = false) →
      step s = .next { s.phaseTick with host := s.host.tail, din := s.din.tail, tick := s.tick + 1 })

/-- R36: the output function, row by row, and during reset. -/
def Obligations.OutputTable : Prop :=
  ∀ s : State,
    ((s.hostAt 0).rst = true → s.pins = ⟨false, false, false, false⟩) ∧
    ((s.hostAt 0).rst = false →
      (s.phase = .idle → s.pins = ⟨false, false, false, false⟩) ∧
      (s.phase = .setup → s.pins = ⟨true, true, false, false⟩) ∧
      (s.phase = .txl → 1 ≤ s.bitcnt.toNat → s.bitcnt.toNat ≤ 32 →
        s.pins = ⟨true, true, false, s.sr.getLsbD (s.bitcnt.toNat - 1)⟩) ∧
      (s.phase = .txh → 1 ≤ s.bitcnt.toNat → s.bitcnt.toNat ≤ 32 →
        s.pins = ⟨true, true, true, s.sr.getLsbD (s.bitcnt.toNat - 1)⟩) ∧
      (s.phase = .dml → s.pins = ⟨true, true, false, false⟩) ∧
      (s.phase = .dmh → s.pins = ⟨true, true, true, false⟩) ∧
      (s.phase = .rxl → s.pins = ⟨true, true, false, false⟩) ∧
      (s.phase = .rxh → s.pins = ⟨true, true, true, false⟩) ∧
      (s.phase = .hold → s.pins = ⟨true, true, false, false⟩))

/-- R22, R25, R35: the status views and the activity indicator, in every state. That the response port is shown in a tick
with `rst = 1` too is the model's choice (log entry 23, DESIGN CHOICE). -/
def Obligations.StatusViews : Prop :=
  ∀ s : State,
    (s.busy = true ↔ s.phase ≠ .idle) ∧ (s.cmdReady = true ↔ s.busy = false ∧ (s.hostAt 0).rst = false) ∧
    s.pins.act = s.pins.cs ∧ (s.pins.cs = true ↔ s.busy = true ∧ (s.hostAt 0).rst = false) ∧
    s.rspValid = s.rspv ∧ s.rspErr = s.errcode ∧ s.rspRdata = s.rdata

/-- R26: ORG is latched by reset and by nothing else; AW and W. -/
def Obligations.OrganizationIsLatchedByReset : Prop :=
  (∀ s t : State, step s = .next t →
    ((s.hostAt 0).rst = true → t.org = (if (s.hostAt 0).org = true then .sixteen else .eight)) ∧
    ((s.hostAt 0).rst = false → t.org = s.org)) ∧
  (∀ (s : State) (l : Level), (s.hostAt 0).rst = false →
    step { s with host := { s.hostAt 0 with org := l } :: s.host.tail } = step s) ∧
  (∀ o : Org, o.addrWidth = (if o = .sixteen then 6 else 7) ∧ o.wordWidth = (if o = .sixteen then 16 else 8))

/-- R28: a tick of a timed phase with TIMER > 0 counts it down and keeps the phase; entering a phase of duration T loads
T - 1; IDLE holds TIMER where no command is accepted. -/
def Obligations.TimerCountsDown : Prop :=
  ∀ s t : State, step s = .next t → (s.hostAt 0).rst = false →
    (s.phase ≠ .idle → 0 < s.timer.toNat → t.phase = s.phase ∧ t.timer.toNat = s.timer.toNat - 1) ∧
    (s.phase ≠ .idle → s.timer.toNat = 0 → t.phase ≠ s.phase) ∧
    (t.phase ≠ s.phase → t.phase ≠ .idle → t.timer.toNat = t.phase.duration s.cfg - 1) ∧
    (s.phase = .idle → t.phase = .idle → t.timer = s.timer)

/-- R28: a phase whose TIMER was loaded with T - 1 lasts exactly T ticks. -/
def Obligations.PhasesLastTheirDuration : Prop :=
  ∀ s : State, s.cfg.legal = true → s.phase ≠ .idle →
    s.timer.toNat = s.phase.duration s.cfg - 1 → s.noResetFor (s.phase.duration s.cfg) →
    s.StaysFor s.phase (s.phase.duration s.cfg)

/-- R151: IDLE. -/
def Obligations.IdleTick : Prop :=
  ∀ s : State, s.cfg.legal = true → s.phase = .idle → (s.hostAt 0).rst = false →
    s.pins = ⟨false, false, false, false⟩ ∧ s.cmdReady = true ∧
    ((s.hostAt 0).cmdValid = false →
      step s = .next { s with rspv := false, host := s.host.tail, din := s.din.tail, tick := s.tick + 1 }) ∧
    ((s.hostAt 0).cmdValid = true →
      (∀ cause, encode s.cfg.opcodes s.org (s.hostAt 0).cmdOp (s.hostAt 0).cmdAddr (s.hostAt 0).cmdData = .error cause →
        step s = .next (s.turnedAway cause.code)) ∧
      (∀ f, encode s.cfg.opcodes s.org (s.hostAt 0).cmdOp (s.hostAt 0).cmdAddr (s.hostAt 0).cmdData = .ok f →
        step s = .next (s.started f.value (BitVec.ofNat 6 f.bits) (decide ((s.hostAt 0).cmdOp = 5))
          (if (s.hostAt 0).cmdOp = 5 then BitVec.ofNat 5 s.org.wordWidth else 0))))

/-- R152: SETUP; from an accepted command it goes to TXL, since BITCNT is 9 or more. -/
def Obligations.SetupTick : Prop :=
  ∀ s : State, s.cfg.legal = true → s.phase = .setup → (s.hostAt 0).rst = false →
    s.pins = ⟨true, true, false, false⟩ ∧
    (0 < s.timer → step s = .next { s.passTick with timer := s.timer - 1 }) ∧
    (s.timer = 0 → s.bitcnt ≠ 0 →
      step s = .next { s.passTick with phase := .txl, timer := BitVec.ofNat 16 (s.cfg.tHalf - 1) }) ∧
    (s.timer = 0 → s.bitcnt = 0 → s.isread = true →
      step s = .next { s.passTick with phase := .dml, timer := BitVec.ofNat 16 (s.cfg.tHalf - 1) }) ∧
    (s.timer = 0 → s.bitcnt = 0 → s.isread = false →
      step s = .next { s.passTick with phase := .hold, timer := BitVec.ofNat 16 (s.cfg.tHold - 1) }) ∧
    (s.HoldsCommand → 9 ≤ s.bitcnt.toNat) ∧
    (s.timer.toNat = s.cfg.tSetup - 1 → s.noResetFor s.cfg.tSetup → s.StaysFor .setup s.cfg.tSetup)

/-- R134: TXL, and how it is entered from the states that meet the invariant. -/
def Obligations.TxlTick : Prop :=
  (∀ s : State, s.cfg.legal = true → s.phase = .txl → (s.hostAt 0).rst = false →
    (1 ≤ s.bitcnt.toNat → s.bitcnt.toNat ≤ 32 →
      s.pins = ⟨true, true, false, s.sr.getLsbD (s.bitcnt.toNat - 1)⟩) ∧
    (0 < s.timer → step s = .next { s.passTick with timer := s.timer - 1 }) ∧
    (s.timer = 0 → step s = .next { s.passTick with phase := .txh, timer := BitVec.ofNat 16 (s.cfg.tHalf - 1) })) ∧
  (∀ s t : State, s.Inv → step s = .next t → s.phase ≠ .txl → t.phase = .txl →
    (s.phase = .setup ∨ s.phase = .txh) ∧ 1 ≤ t.bitcnt.toNat ∧ t.timer = BitVec.ofNat 16 (s.cfg.tHalf - 1))

/-- R135: TXH; where the last bit ends, CLK and DOUT are low in the next tick, the idle tail of R133. -/
def Obligations.TxhTick : Prop :=
  ∀ s : State, s.cfg.legal = true → s.phase = .txh → (s.hostAt 0).rst = false → 1 ≤ s.bitcnt.toNat → s.bitcnt.toNat ≤ 32 →
    s.pins = ⟨true, true, true, s.sr.getLsbD (s.bitcnt.toNat - 1)⟩ ∧
    (0 < s.timer → step s = .next { s.passTick with timer := s.timer - 1 }) ∧
    (s.timer = 0 → 2 ≤ s.bitcnt.toNat →
      step s = .next { s.passTick with
        bitcnt := BitVec.ofNat 6 (s.bitcnt.toNat - 1), phase := .txl, timer := BitVec.ofNat 16 (s.cfg.tHalf - 1) }) ∧
    (s.timer = 0 → s.bitcnt.toNat = 1 → ∃ t, step s = .next t ∧ t.pins.clk = false ∧ t.pins.dout = false ∧
      (s.isread = true → t = { s.passTick with bitcnt := 0, phase := .dml, timer := BitVec.ofNat 16 (s.cfg.tHalf - 1) }) ∧
      (s.isread = false → t = { s.passTick with bitcnt := 0, phase := .hold, timer := BitVec.ofNat 16 (s.cfg.tHold - 1) }))

/-- R182: the dummy cycle, DML and DMH; no sample is taken; and DML is entered from the last TXH (in every state that meets
the invariant: SETUP leads there only with no frame bit to send, R152). -/
def Obligations.DummyCycleTicks : Prop :=
  (∀ s t : State, s.Inv → step s = .next t → s.phase ≠ .dml → t.phase = .dml →
    s.phase = .txh ∧ s.bitcnt = 1 ∧ t.timer = BitVec.ofNat 16 (s.cfg.tHalf - 1)) ∧
  ∀ s : State, s.cfg.legal = true → (s.hostAt 0).rst = false →
    (s.phase = .dml →
      s.pins = ⟨true, true, false, false⟩ ∧
      (0 < s.timer → step s = .next { s.passTick with timer := s.timer - 1 }) ∧
      (s.timer = 0 → step s = .next { s.passTick with phase := .dmh, timer := BitVec.ofNat 16 (s.cfg.tHalf - 1) })) ∧
    (s.phase = .dmh →
      s.pins = ⟨true, true, true, false⟩ ∧
      (0 < s.timer → step s = .next { s.passTick with timer := s.timer - 1 }) ∧
      (s.timer = 0 → step s = .next { s.passTick with phase := .rxl, timer := BitVec.ofNat 16 (s.cfg.tHalf - 1) }))

/-- R183: RXL; the sample in its first tick, shifted into RXACC. -/
def Obligations.RxlTick : Prop :=
  ∀ s : State, s.cfg.legal = true → s.phase = .rxl → (s.hostAt 0).rst = false →
    s.pins = ⟨true, true, false, false⟩ ∧
    ∃ acc : DataWord,
      (s.timer.toNat = s.cfg.tHalf - 1 → acc = BitVec.ofNat 16 (2 * s.rxacc.toNat + (s.dinAt 0).toNat)) ∧
      (s.timer.toNat ≠ s.cfg.tHalf - 1 → acc = s.rxacc) ∧
      (0 < s.timer → step s = .next { s.passTick with rxacc := acc, timer := s.timer - 1 }) ∧
      (s.timer = 0 →
        step s = .next { s.passTick with rxacc := acc, phase := .rxh, timer := BitVec.ofNat 16 (s.cfg.tHalf - 1) })

/-- R184: RXH. -/
def Obligations.RxhTick : Prop :=
  ∀ s : State, s.cfg.legal = true → s.phase = .rxh → (s.hostAt 0).rst = false → 1 ≤ s.rxcnt.toNat →
    s.pins = ⟨true, true, true, false⟩ ∧
    (0 < s.timer → step s = .next { s.passTick with timer := s.timer - 1 }) ∧
    (s.timer = 0 → 2 ≤ s.rxcnt.toNat →
      step s = .next { s.passTick with
        rxcnt := BitVec.ofNat 5 (s.rxcnt.toNat - 1), phase := .rxl, timer := BitVec.ofNat 16 (s.cfg.tHalf - 1) }) ∧
    (s.timer = 0 → s.rxcnt.toNat = 1 →
      step s = .next { s.passTick with rxcnt := 0, phase := .hold, timer := BitVec.ofNat 16 (s.cfg.tHold - 1) })

/-- R153: HOLD; the result of a Read is zext_16(RXACC[W-1:0]), and CS and ACT fall together at its end. -/
def Obligations.HoldTick : Prop :=
  ∀ s : State, s.cfg.legal = true → s.phase = .hold → (s.hostAt 0).rst = false →
    s.pins = ⟨true, true, false, false⟩ ∧
    (0 < s.timer → step s = .next { s.passTick with timer := s.timer - 1 }) ∧
    (s.timer = 0 →
      ∃ t, step s = .next t ∧ t.pins.cs = false ∧ t.pins.act = false ∧
        t = { s.passTick with
          phase := .idle
          rdata := if s.isread then BitVec.ofNat 16 (s.rxacc.toNat % 2 ^ s.org.wordWidth) else s.rdata
          errcode := 0
          rspv := true }) ∧
    (s.timer.toNat = s.cfg.tHold - 1 → s.noResetFor s.cfg.tHold → s.StaysFor .hold s.cfg.tHold)

/-- R240: a tick with `rst = 1`, in every phase and whatever is presented. -/
def Obligations.ResetTick : Prop :=
  ∀ s : State, s.cfg.legal = true → (s.hostAt 0).rst = true →
    s.pins = ⟨false, false, false, false⟩ ∧ s.cmdReady = false ∧
    step s = .next (s.afterReset (if (s.hostAt 0).org = true then .sixteen else .eight))

/-- R243: the first tick after reset is ready, and accepts a command that is presented in it. -/
def Obligations.ReadyAfterReset : Prop :=
  ∀ s t : State, (s.hostAt 0).rst = true → step s = .next t → (t.hostAt 0).rst = false →
    t.phase = .idle ∧ t.cmdReady = true ∧ t.rspv = false ∧ ((t.hostAt 0).cmdValid = true → t.accepts = true)

/-- R38 and the model's choice of the strap in State.reset (log entry 5: Eight): the reset state's registers. -/
def Obligations.ResetStateRegisters : Prop :=
  State.reset.phase = .idle ∧ State.reset.timer = 0 ∧ State.reset.sr = 0 ∧ State.reset.bitcnt = 0 ∧
  State.reset.isread = false ∧ State.reset.rxcnt = 0 ∧ State.reset.rxacc = 0 ∧ State.reset.rdata = 0 ∧
  State.reset.errcode = 0 ∧ State.reset.rspv = false ∧ State.reset.org = .eight ∧
  State.reset.cfg.tHalf = 1 ∧ State.reset.cfg.tSetup = 3 ∧ State.reset.cfg.tHold = 3

/-! ### The commands: acceptance -/

/-- R106, R108, R109, R151, R160, R162, R163: WriteDisable, EraseAll and WriteEnable are accepted in every ready state. -/
def Obligations.CommandsWithoutOperandsAreAccepted : Prop :=
  ∀ s : State, s.cfg.legal = true → s.cmdReady = true →
    (s.org = .sixteen →
      exec .writeDisableX16 s = .next (s.started ((1#1 ++ s.cfg.opcodes.writeDisable.op ++
        s.cfg.opcodes.writeDisable.ext.getD 0 ++ 0#4).setWidth 32) 9 false 0) ∧
      exec .eraseAllX16 s = .next (s.started ((1#1 ++ s.cfg.opcodes.eraseAll.op ++
        s.cfg.opcodes.eraseAll.ext.getD 0 ++ 0#4).setWidth 32) 9 false 0) ∧
      exec .writeEnableX16 s = .next (s.started ((1#1 ++ s.cfg.opcodes.writeEnable.op ++
        s.cfg.opcodes.writeEnable.ext.getD 0 ++ 0#4).setWidth 32) 9 false 0)) ∧
    (s.org = .eight →
      exec .writeDisableX8 s = .next (s.started ((1#1 ++ s.cfg.opcodes.writeDisable.op ++
        s.cfg.opcodes.writeDisable.ext.getD 0 ++ 0#5).setWidth 32) 10 false 0) ∧
      exec .eraseAllX8 s = .next (s.started ((1#1 ++ s.cfg.opcodes.eraseAll.op ++
        s.cfg.opcodes.eraseAll.ext.getD 0 ++ 0#5).setWidth 32) 10 false 0) ∧
      exec .writeEnableX8 s = .next (s.started ((1#1 ++ s.cfg.opcodes.writeEnable.op ++
        s.cfg.opcodes.writeEnable.ext.getD 0 ++ 0#5).setWidth 32) 10 false 0))

/-- R107, R151, R161: WriteAll, accepted or rejected. -/
def Obligations.WriteAllIsAcceptedOrRejected : Prop :=
  ∀ (s : State) (d : Operand), s.cfg.legal = true → s.cmdReady = true →
    (s.org = .sixteen →
      (d.toNat < 2 ^ 16 →
        exec (.writeAllX16 d) s = .next (s.started ((1#1 ++ s.cfg.opcodes.writeAll.op ++
          s.cfg.opcodes.writeAll.ext.getD 0 ++ 0#4 ++ d.setWidth 16).setWidth 32) 25 false 0)) ∧
      (2 ^ 16 ≤ d.toNat → exec (.writeAllX16 d) s = .next (s.turnedAway 2))) ∧
    (s.org = .eight →
      (d.toNat < 2 ^ 8 →
        exec (.writeAllX8 d) s = .next (s.started ((1#1 ++ s.cfg.opcodes.writeAll.op ++
          s.cfg.opcodes.writeAll.ext.getD 0 ++ 0#5 ++ d.setWidth 8).setWidth 32) 18 false 0)) ∧
      (2 ^ 8 ≤ d.toNat → exec (.writeAllX8 d) s = .next (s.turnedAway 2)))

/-- R110, R151, R164: Write, accepted or rejected. -/
def Obligations.WriteIsAcceptedOrRejected : Prop :=
  ∀ (s : State) (a d : Operand), s.cfg.legal = true → s.cmdReady = true →
    (s.org = .sixteen →
      (a.toNat < 2 ^ 6 → d.toNat < 2 ^ 16 →
        exec (.writeX16 a d) s = .next (s.started ((1#1 ++ s.cfg.opcodes.write.op ++ a.setWidth 6 ++
          d.setWidth 16).setWidth 32) 25 false 0)) ∧
      (2 ^ 6 ≤ a.toNat → exec (.writeX16 a d) s = .next (s.turnedAway 1)) ∧
      (a.toNat < 2 ^ 6 → 2 ^ 16 ≤ d.toNat → exec (.writeX16 a d) s = .next (s.turnedAway 2))) ∧
    (s.org = .eight →
      (a.toNat < 2 ^ 7 → d.toNat < 2 ^ 8 →
        exec (.writeX8 a d) s = .next (s.started ((1#1 ++ s.cfg.opcodes.write.op ++ a.setWidth 7 ++
          d.setWidth 8).setWidth 32) 18 false 0)) ∧
      (2 ^ 7 ≤ a.toNat → exec (.writeX8 a d) s = .next (s.turnedAway 1)) ∧
      (a.toNat < 2 ^ 7 → 2 ^ 8 ≤ d.toNat → exec (.writeX8 a d) s = .next (s.turnedAway 2)))

/-- R111, R151, R188: Read, accepted or rejected. -/
def Obligations.ReadIsAcceptedOrRejected : Prop :=
  ∀ (s : State) (a : Operand), s.cfg.legal = true → s.cmdReady = true →
    (s.org = .sixteen →
      (a.toNat < 2 ^ 6 →
        exec (.readX16 a) s = .next (s.started ((1#1 ++ s.cfg.opcodes.read.op ++ a.setWidth 6).setWidth 32) 9 true 16)) ∧
      (2 ^ 6 ≤ a.toNat → exec (.readX16 a) s = .next (s.turnedAway 1))) ∧
    (s.org = .eight →
      (a.toNat < 2 ^ 7 →
        exec (.readX8 a) s = .next (s.started ((1#1 ++ s.cfg.opcodes.read.op ++ a.setWidth 7).setWidth 32) 10 true 8)) ∧
      (2 ^ 7 ≤ a.toNat → exec (.readX8 a) s = .next (s.turnedAway 1)))

/-- R112, R151, R165: Erase, accepted or rejected. -/
def Obligations.EraseIsAcceptedOrRejected : Prop :=
  ∀ (s : State) (a : Operand), s.cfg.legal = true → s.cmdReady = true →
    (s.org = .sixteen →
      (a.toNat < 2 ^ 6 →
        exec (.eraseX16 a) s = .next (s.started ((1#1 ++ s.cfg.opcodes.erase.op ++ a.setWidth 6).setWidth 32) 9 false 0)) ∧
      (2 ^ 6 ≤ a.toNat → exec (.eraseX16 a) s = .next (s.turnedAway 1))) ∧
    (s.org = .eight →
      (a.toNat < 2 ^ 7 →
        exec (.eraseX8 a) s = .next (s.started ((1#1 ++ s.cfg.opcodes.erase.op ++ a.setWidth 7).setWidth 32) 10 false 0)) ∧
      (2 ^ 7 ≤ a.toNat → exec (.eraseX8 a) s = .next (s.turnedAway 1)))

/-- R154, R245: while the CORE is busy a command is not taken: the tick is the one without it, for every instruction. -/
def Obligations.BusyCoreTakesNoCommand : Prop :=
  ∀ (s : State) (i : Instr), s.cfg.legal = true → s.phase ≠ .idle → (s.hostAt 0).rst = false →
    s.cmdReady = false ∧
    exec i s = step { s with host := { s.hostAt 0 with cmdValid := false } :: s.host.tail } ∧
    step { s with host := i.transfer :: s.host.tail } = exec i s

/-- R211, R212: a rejection, from any ready state: the response, the levels, and the readiness in the next tick. Where the
next tick has `rst = 1`, that the response port still shows the rejection is the model's choice (log entry 23). -/
def Obligations.RejectionHasNoBusActivity : Prop :=
  ∀ (s : State) (cause : Cause), s.cfg.legal = true → s.accepts = true →
    encode s.cfg.opcodes s.org (s.hostAt 0).cmdOp (s.hostAt 0).cmdAddr (s.hostAt 0).cmdData = .error cause →
    s.pins = ⟨false, false, false, false⟩ ∧ step s = .next (s.turnedAway cause.code) ∧
    (s.turnedAway cause.code).pins = ⟨false, false, false, false⟩ ∧
    (s.turnedAway cause.code).rspValid = true ∧ (s.turnedAway cause.code).rspErr = cause.code ∧
    (s.turnedAway cause.code).rspRdata = s.rdata ∧
    ((s.hostAt 1).rst = false → (s.turnedAway cause.code).cmdReady = true)

/-! ### The commands: from acceptance to response -/

/-- R160 to R166, R188, R189, for every instruction: a well-formed command of the CORE's organization, presented to a ready
CORE that is not reset before the response, runs to its successful response after exactly `T_SETUP + 2·P·T_HALF + T_HOLD`
ticks with CS high, P being its clock pulses; the state at the response is given whole. -/
def Obligations.CommandsRunToTheirResponse : Prop :=
  ∀ (s : State) (i : Instr), s.cfg.legal = true → s.cmdReady = true → s.org = i.org → i.wellFormed = true →
    s.noResetFor (csHighTicks s.cfg s.org i.command) →
    ∃ t, exec i s = .next t ∧
      run (s.cfg.tSetup + 2 * (frameBits s.org i.command + (if i.command = .read then 1 + s.org.wordWidth else 0)) * s.cfg.tHalf
          + s.cfg.tHold) t =
        .next (t.finished (csHighTicks s.cfg s.org i.command)
          (if i.command = .read then (accumulate s.org.wordWidth s.samples).setWidth 16 else 0)
          (if i.command = .read then (accumulate s.org.wordWidth s.samples).setWidth 16 else s.rdata)) ∧
      t.sr = (encodeInstr s.cfg.opcodes i).value ∧ t.org = s.org ∧ t.cfg = s.cfg ∧ t.isread = i.command.isRead

/-- R29, R57, R60: from acceptance to the last tick of HOLD the CORE is busy, holds the frame and gives no response. -/
def Obligations.AcceptedCommandHoldsTheBus : Prop :=
  ∀ (s : State) (i : Instr), s.cfg.legal = true → s.cmdReady = true → s.org = i.org → i.wellFormed = true →
    s.noResetFor (csHighTicks s.cfg s.org i.command) →
    ∃ t, exec i s = .next t ∧ ∀ j, j < csHighTicks s.cfg s.org i.command →
      ∃ v, run j t = .next v ∧ v.busy = true ∧ v.cmdReady = false ∧ v.rspv = false ∧
        v.sr = (encodeInstr s.cfg.opcodes i).value ∧ v.org = s.org ∧ v.rdata = s.rdata ∧ v.errcode = s.errcode

/-- R157: over the run from the tick after acceptance to the return to IDLE, the output lines are the waveform of the call
trace of R150, or of R180 for a Read, tick for tick; the acceptance tick and the tick of the response have them low. -/
def Obligations.AcceptedCommandShowsItsCallTrace : Prop :=
  ∀ (s : State) (i : Instr), s.cfg.legal = true → s.cmdReady = true → s.org = i.org → i.wellFormed = true →
    s.noResetFor (csHighTicks s.cfg s.org i.command) →
    s.pins = ⟨false, false, false, false⟩ ∧
    ∃ t, exec i s = .next t ∧
      pinsDuring (csHighTicks s.cfg s.org i.command + 1) t =
        waveform ⟨false, false, false, false⟩
          (if i.command = .read then readTrace s.cfg s.org (encodeInstr s.cfg.opcodes i)
            else executeTrace s.cfg (encodeInstr s.cfg.opcodes i))
          ++ [⟨false, false, false, false⟩]

/-- D27, R130, R150, R152, R157: the transmitter as a sub-block, for any frame and any bit-count 0..32, from SETUP. -/
def Obligations.SequencerShowsAnyFrame : Prop :=
  ∀ (s : State), s.cfg.legal = true → s.phase = .setup → s.timer.toNat = s.cfg.tSetup - 1 → s.bitcnt.toNat ≤ 32 →
    s.isread = false → s.noResetFor (s.cfg.tSetup + 2 * s.bitcnt.toNat * s.cfg.tHalf + s.cfg.tHold) →
    pinsDuring (s.cfg.tSetup + 2 * s.bitcnt.toNat * s.cfg.tHalf + s.cfg.tHold) s =
      waveform ⟨false, false, false, false⟩ (executeTrace s.cfg ⟨s.sr, s.bitcnt.toNat⟩)

/-- R130 to R133, R136: the transmitter's call trace sends exactly the n bits, most significant first, padded with zeros,
in `2·n·T_HALF` ticks. -/
def Obligations.TransmitterSendsMsbFirst : Prop :=
  ∀ (tHalf n : Nat) (frame : FrameWord) (v : Pins) (clk : Level), 1 ≤ tHalf →
    doutAtEdges clk (waveform v (transmitTrace tHalf frame n)) =
      (List.range n).map (fun k => frame.getLsbD (n - 1 - k)) ∧
    (waveform v (transmitTrace tHalf frame n)).length = 2 * n * tHalf ∧
    transmitTrace tHalf frame 0 = [.setDout false, .setClk false]

/-- R136, R187: the rising edges of CLK in a command's window and the DOUT level at each: the frame's wire string, then,
for a Read, one dummy edge and W data edges with DOUT low. -/
def Obligations.ClockEdgesCarryTheFrame : Prop :=
  ∀ (s : State) (i : Instr), s.cfg.legal = true → s.cmdReady = true → s.org = i.org → i.wellFormed = true →
    s.noResetFor (csHighTicks s.cfg s.org i.command) →
    ∃ t, exec i s = .next t ∧
      doutAtEdges false (pinsDuring (csHighTicks s.cfg s.org i.command) t) =
        (encodeInstr s.cfg.opcodes i).wire ++
          (if i.command = .read then List.replicate (1 + s.org.wordWidth) false else [])

/-- R180, R186, R187: the instants of the W samples of the call trace are the first ticks of the RXL phases, and sample k
lies after rising edge N+1+k and before rising edge N+2+k. -/
def Obligations.SampleInstants : Prop :=
  ∀ (p : Params) (org : Org) (value : FrameWord), p.legal = true →
    (sampleTimes 0 (readTrace p org ⟨value, frameBits org .read⟩)).map (· + 1) =
      (List.range org.wordWidth).map (sampleTick p org) ∧
    ∀ k, k < org.wordWidth →
      edgeTick p (frameBits org .read + 1 + k) + p.tHalf = sampleTick p org k ∧
      sampleTick p org k + p.tHalf = edgeTick p (frameBits org .read + 2 + k)

/-- R186, R226(b): under the device contract a Read returns the device's word. Where the tick of the response has
`rst = 1`, that the response port still shows it is the model's choice (log entry 23). -/
def Obligations.ReadReturnsTheDeviceWord : Prop :=
  ∀ (s : State) (i : Instr) (word : DataWord), s.cfg.legal = true → s.cmdReady = true → s.org = i.org →
    i.command = .read → i.wellFormed = true → s.noResetFor (csHighTicks s.cfg s.org .read) →
    word.toNat < 2 ^ s.org.wordWidth → s.DevicePresents word →
    ∃ t u, exec i s = .next t ∧ run (csHighTicks s.cfg s.org .read) t = .next u ∧
      u.rspValid = true ∧ u.rspErr = 0 ∧ u.rspRdata = word

/-- R252: the durations, by command and organization, and with the default parameters. -/
def Obligations.DurationTable : Prop :=
  (∀ p : Params,
    (∀ c, c = .writeDisable ∨ c = .eraseAll ∨ c = .writeEnable ∨ c = .erase →
      csHighTicks p .sixteen c = p.tSetup + 18 * p.tHalf + p.tHold ∧
      csHighTicks p .eight c = p.tSetup + 20 * p.tHalf + p.tHold) ∧
    (∀ c, c = .write ∨ c = .writeAll →
      csHighTicks p .sixteen c = p.tSetup + 50 * p.tHalf + p.tHold ∧
      csHighTicks p .eight c = p.tSetup + 36 * p.tHalf + p.tHold) ∧
    csHighTicks p .sixteen .read = p.tSetup + 52 * p.tHalf + p.tHold ∧
    csHighTicks p .eight .read = p.tSetup + 38 * p.tHalf + p.tHold) ∧
  csHighTicks Config.default .sixteen .erase = 24 ∧ csHighTicks Config.default .eight .erase = 26 ∧
  csHighTicks Config.default .sixteen .write = 56 ∧ csHighTicks Config.default .eight .write = 42 ∧
  csHighTicks Config.default .sixteen .read = 58 ∧ csHighTicks Config.default .eight .read = 44

/-! ### What an input cannot do, and what writes the results -/

/-- R34: what writes RDATA, ERRCODE and RSPV in a tick without reset. -/
def Obligations.ResultRegisterWrites : Prop :=
  ∀ s t : State, s.Inv → step s = .next t → (s.hostAt 0).rst = false →
    (t.rspv = true ↔
      (s.phase = .hold ∧ s.timer = 0) ∨
        (s.accepts = true ∧ ∃ cause,
          encode s.cfg.opcodes s.org (s.hostAt 0).cmdOp (s.hostAt 0).cmdAddr (s.hostAt 0).cmdData = .error cause)) ∧
    (s.phase = .hold → s.timer = 0 → t.errcode = 0) ∧
    (∀ cause, s.accepts = true →
      encode s.cfg.opcodes s.org (s.hostAt 0).cmdOp (s.hostAt 0).cmdAddr (s.hostAt 0).cmdData = .error cause →
      t.errcode = cause.code) ∧
    (t.rspv = false → t.errcode = s.errcode) ∧
    (s.phase = .hold → s.timer = 0 → s.isread = true →
      t.rdata = BitVec.ofNat 16 (s.rxacc.toNat % 2 ^ s.org.wordWidth)) ∧
    (¬(s.phase = .hold ∧ s.timer = 0 ∧ s.isread = true) → t.rdata = s.rdata)

/-- R190: DIN changes no register and no output outside the first tick of an RXL phase. -/
def Obligations.DinIsReadOnlyAtSamples : Prop :=
  ∀ (s : State) (l : Level), s.cfg.legal = true → ¬(s.phase = .rxl ∧ s.timer.toNat = s.cfg.tHalf - 1) →
    step { s with din := l :: s.din.tail } = step s ∧ ({ s with din := l :: s.din.tail } : State).pins = s.pins

/-- R249: the command port is read only in the acceptance tick. -/
def Obligations.OperandsAreCapturedAtAcceptance : Prop :=
  ∀ (s : State) (x : HostInput), s.cfg.legal = true → (s.phase ≠ .idle ∨ x.cmdValid = false ∧ (s.hostAt 0).cmdValid = false) →
    x.rst = false → (s.hostAt 0).rst = false →
    step { s with host := x :: s.host.tail } = step s

/-- R58, R114, R212: a tick of a command in progress writes no result register before the end of HOLD, and never the frame,
ORG or the configuration; a rejection writes ERRCODE and RSPV only. The environment moves on by one tick. -/
def Obligations.FrameOfATick : Prop :=
  ∀ s t : State, step s = .next t →
    t.cfg = s.cfg ∧ t.host = s.host.tail ∧ t.din = s.din.tail ∧ t.tick = s.tick + 1 ∧
    ((s.hostAt 0).rst = false →
      t.org = s.org ∧
      (s.phase ≠ .idle → t.sr = s.sr ∧ t.isread = s.isread) ∧
      (s.phase ≠ .txh → s.phase ≠ .idle → t.bitcnt = s.bitcnt) ∧
      (s.phase ≠ .rxh → s.phase ≠ .idle → t.rxcnt = s.rxcnt) ∧
      (s.phase ≠ .rxl → s.phase ≠ .idle → t.rxacc = s.rxacc) ∧
      (s.phase ≠ .hold → s.phase ≠ .idle → t.errcode = s.errcode ∧ t.rspv = s.rspv) ∧
      (s.phase ≠ .hold → t.rdata = s.rdata) ∧
      (s.phase = .idle → t.phase = .idle →
        t.sr = s.sr ∧ t.bitcnt = s.bitcnt ∧ t.isread = s.isread ∧ t.rxcnt = s.rxcnt ∧ t.rxacc = s.rxacc ∧
          t.timer = s.timer))

/-- R27, R181: the order of the phases. -/
def Obligations.PhaseOrder : Prop :=
  ∀ s t : State, s.Inv → step s = .next t → (s.hostAt 0).rst = false → t.phase ≠ s.phase →
    (s.phase, t.phase) ∈
      (if s.isread then
        [(.idle, .setup), (.setup, .txl), (.txl, .txh), (.txh, .txl), (.txh, .dml), (.dml, .dmh), (.dmh, .rxl), (.rxl, .rxh),
          (.rxh, .rxl), (.rxh, .hold), (.hold, .idle)]
      else
        [(.idle, .setup), (.setup, .txl), (.txl, .txh), (.txh, .txl), (.txh, .hold), (.hold, .idle)])

/-! ### Invariants -/

/-- R38, R39: the reset state meets the invariant. -/
def Obligations.ResetMeetsInvariant : Prop := State.reset.Inv

/-- R39: every tick keeps the invariant, from any state that meets it. -/
def Obligations.TicksKeepInvariant : Prop := ∀ s t : State, s.Inv → step s = .next t → t.Inv

/-- R39(a) to (g), in every state reached from a reset, with `rst = 0`. -/
def Obligations.ReachableStatesMeetR39 : Prop :=
  ∀ s : State, s.ReachableFromReset → (s.hostAt 0).rst = false →
    s.phase.code.toNat ≤ 8 ∧
    (s.HoldsNone ∨ ∃ (c : Command) (a d : Operand) (f : Frame), encode s.cfg.opcodes s.org c.code a d = .ok f ∧
      (s.phase = .txl ∨ s.phase = .txh → 1 ≤ s.bitcnt.toNat ∧ s.bitcnt.toNat ≤ f.bits) ∧ f.bits ≤ 25 ∧
      s.sr = f.value ∧ s.sr.toNat < 2 ^ f.bits) ∧
    (s.phase = .dml ∨ s.phase = .dmh ∨ s.phase = .rxl ∨ s.phase = .rxh → s.isread = true ∧ s.bitcnt = 0) ∧
    (s.phase = .rxl ∨ s.phase = .rxh → 1 ≤ s.rxcnt.toNat ∧ s.rxcnt.toNat ≤ s.org.wordWidth) ∧
    (s.phase = .idle → s.pins = ⟨false, false, false, false⟩) ∧
    s.pins.cs = s.pins.act

/-- R57, R214: from every state that meets the invariant a command in progress ends with its successful response, within
the longest window of its organization, unless reset intervenes. -/
def Obligations.CommandsInProgressEnd : Prop :=
  ∀ s : State, s.Inv → s.phase ≠ .idle → s.noResetFor (csHighTicks s.cfg s.org .read) →
    ∃ k t, 1 ≤ k ∧ k ≤ csHighTicks s.cfg s.org .read ∧ run k s = .next t ∧ t.phase = .idle ∧ t.rspv = true ∧ t.errcode = 0 ∧
      t.sr = s.sr
end

