-- ==== Sys2Proof/Laws/State.lean ====
section
/-! SUPPORT. One lemma for each field and each update of the state. -/

namespace Sys2Proof.Machine

variable (s : State)

/-! ### respond -/

@[simp] theorem State.respond_cfg (code : BitVec 2) : (s.respond code).cfg = s.cfg := rfl
@[simp] theorem State.respond_org (code : BitVec 2) : (s.respond code).org = s.org := rfl
@[simp] theorem State.respond_phase (code : BitVec 2) : (s.respond code).phase = s.phase := rfl
@[simp] theorem State.respond_timer (code : BitVec 2) : (s.respond code).timer = s.timer := rfl
@[simp] theorem State.respond_sr (code : BitVec 2) : (s.respond code).sr = s.sr := rfl
@[simp] theorem State.respond_bitcnt (code : BitVec 2) : (s.respond code).bitcnt = s.bitcnt := rfl
@[simp] theorem State.respond_isread (code : BitVec 2) : (s.respond code).isread = s.isread := rfl
@[simp] theorem State.respond_rxcnt (code : BitVec 2) : (s.respond code).rxcnt = s.rxcnt := rfl
@[simp] theorem State.respond_rxacc (code : BitVec 2) : (s.respond code).rxacc = s.rxacc := rfl
@[simp] theorem State.respond_rdata (code : BitVec 2) : (s.respond code).rdata = s.rdata := rfl
@[simp] theorem State.respond_errcode (code : BitVec 2) : (s.respond code).errcode = code := rfl
@[simp] theorem State.respond_rspv (code : BitVec 2) : (s.respond code).rspv = true := rfl
@[simp] theorem State.respond_host (code : BitVec 2) : (s.respond code).host = s.host := rfl
@[simp] theorem State.respond_din (code : BitVec 2) : (s.respond code).din = s.din := rfl
@[simp] theorem State.respond_tick (code : BitVec 2) : (s.respond code).tick = s.tick := rfl

/-! ### clearResponse -/

@[simp] theorem State.clearResponse_cfg : s.clearResponse.cfg = s.cfg := rfl
@[simp] theorem State.clearResponse_org : s.clearResponse.org = s.org := rfl
@[simp] theorem State.clearResponse_phase : s.clearResponse.phase = s.phase := rfl
@[simp] theorem State.clearResponse_timer : s.clearResponse.timer = s.timer := rfl
@[simp] theorem State.clearResponse_sr : s.clearResponse.sr = s.sr := rfl
@[simp] theorem State.clearResponse_bitcnt : s.clearResponse.bitcnt = s.bitcnt := rfl
@[simp] theorem State.clearResponse_isread : s.clearResponse.isread = s.isread := rfl
@[simp] theorem State.clearResponse_rxcnt : s.clearResponse.rxcnt = s.rxcnt := rfl
@[simp] theorem State.clearResponse_rxacc : s.clearResponse.rxacc = s.rxacc := rfl
@[simp] theorem State.clearResponse_rdata : s.clearResponse.rdata = s.rdata := rfl
@[simp] theorem State.clearResponse_errcode : s.clearResponse.errcode = s.errcode := rfl
@[simp] theorem State.clearResponse_rspv : s.clearResponse.rspv = false := rfl
@[simp] theorem State.clearResponse_host : s.clearResponse.host = s.host := rfl
@[simp] theorem State.clearResponse_din : s.clearResponse.din = s.din := rfl
@[simp] theorem State.clearResponse_tick : s.clearResponse.tick = s.tick := rfl

/-! ### passTick -/

@[simp] theorem State.passTick_cfg : s.passTick.cfg = s.cfg := rfl
@[simp] theorem State.passTick_org : s.passTick.org = s.org := rfl
@[simp] theorem State.passTick_phase : s.passTick.phase = s.phase := rfl
@[simp] theorem State.passTick_timer : s.passTick.timer = s.timer := rfl
@[simp] theorem State.passTick_sr : s.passTick.sr = s.sr := rfl
@[simp] theorem State.passTick_bitcnt : s.passTick.bitcnt = s.bitcnt := rfl
@[simp] theorem State.passTick_isread : s.passTick.isread = s.isread := rfl
@[simp] theorem State.passTick_rxcnt : s.passTick.rxcnt = s.rxcnt := rfl
@[simp] theorem State.passTick_rxacc : s.passTick.rxacc = s.rxacc := rfl
@[simp] theorem State.passTick_rdata : s.passTick.rdata = s.rdata := rfl
@[simp] theorem State.passTick_errcode : s.passTick.errcode = s.errcode := rfl
@[simp] theorem State.passTick_rspv : s.passTick.rspv = s.rspv := rfl
@[simp] theorem State.passTick_host : s.passTick.host = s.host.tail := rfl
@[simp] theorem State.passTick_din : s.passTick.din = s.din.tail := rfl
@[simp] theorem State.passTick_tick : s.passTick.tick = s.tick + 1 := rfl

/-! ### passTicks -/

@[simp] theorem State.passTicks_cfg (k : Nat) : (s.passTicks k).cfg = s.cfg := rfl
@[simp] theorem State.passTicks_org (k : Nat) : (s.passTicks k).org = s.org := rfl
@[simp] theorem State.passTicks_phase (k : Nat) : (s.passTicks k).phase = s.phase := rfl
@[simp] theorem State.passTicks_timer (k : Nat) : (s.passTicks k).timer = s.timer := rfl
@[simp] theorem State.passTicks_sr (k : Nat) : (s.passTicks k).sr = s.sr := rfl
@[simp] theorem State.passTicks_bitcnt (k : Nat) : (s.passTicks k).bitcnt = s.bitcnt := rfl
@[simp] theorem State.passTicks_isread (k : Nat) : (s.passTicks k).isread = s.isread := rfl
@[simp] theorem State.passTicks_rxcnt (k : Nat) : (s.passTicks k).rxcnt = s.rxcnt := rfl
@[simp] theorem State.passTicks_rxacc (k : Nat) : (s.passTicks k).rxacc = s.rxacc := rfl
@[simp] theorem State.passTicks_rdata (k : Nat) : (s.passTicks k).rdata = s.rdata := rfl
@[simp] theorem State.passTicks_errcode (k : Nat) : (s.passTicks k).errcode = s.errcode := rfl
@[simp] theorem State.passTicks_rspv (k : Nat) : (s.passTicks k).rspv = s.rspv := rfl
@[simp] theorem State.passTicks_host (k : Nat) : (s.passTicks k).host = s.host.drop k := rfl
@[simp] theorem State.passTicks_din (k : Nat) : (s.passTicks k).din = s.din.drop k := rfl
@[simp] theorem State.passTicks_tick (k : Nat) : (s.passTicks k).tick = s.tick + k := rfl

/-! ### enter -/

@[simp] theorem State.enter_cfg (p : Phase) (d : Nat) : (s.enter p d).cfg = s.cfg := rfl
@[simp] theorem State.enter_org (p : Phase) (d : Nat) : (s.enter p d).org = s.org := rfl
@[simp] theorem State.enter_phase (p : Phase) (d : Nat) : (s.enter p d).phase = p := rfl
@[simp] theorem State.enter_timer (p : Phase) (d : Nat) : (s.enter p d).timer = BitVec.ofNat 16 (d - 1) := rfl
@[simp] theorem State.enter_sr (p : Phase) (d : Nat) : (s.enter p d).sr = s.sr := rfl
@[simp] theorem State.enter_bitcnt (p : Phase) (d : Nat) : (s.enter p d).bitcnt = s.bitcnt := rfl
@[simp] theorem State.enter_isread (p : Phase) (d : Nat) : (s.enter p d).isread = s.isread := rfl
@[simp] theorem State.enter_rxcnt (p : Phase) (d : Nat) : (s.enter p d).rxcnt = s.rxcnt := rfl
@[simp] theorem State.enter_rxacc (p : Phase) (d : Nat) : (s.enter p d).rxacc = s.rxacc := rfl
@[simp] theorem State.enter_rdata (p : Phase) (d : Nat) : (s.enter p d).rdata = s.rdata := rfl
@[simp] theorem State.enter_errcode (p : Phase) (d : Nat) : (s.enter p d).errcode = s.errcode := rfl
@[simp] theorem State.enter_rspv (p : Phase) (d : Nat) : (s.enter p d).rspv = s.rspv := rfl
@[simp] theorem State.enter_host (p : Phase) (d : Nat) : (s.enter p d).host = s.host := rfl
@[simp] theorem State.enter_din (p : Phase) (d : Nat) : (s.enter p d).din = s.din := rfl
@[simp] theorem State.enter_tick (p : Phase) (d : Nat) : (s.enter p d).tick = s.tick := rfl

/-! ### reject -/

@[simp] theorem State.reject_cfg (c : Cause) : (s.reject c).cfg = s.cfg := rfl
@[simp] theorem State.reject_org (c : Cause) : (s.reject c).org = s.org := rfl
@[simp] theorem State.reject_phase (c : Cause) : (s.reject c).phase = s.phase := rfl
@[simp] theorem State.reject_timer (c : Cause) : (s.reject c).timer = s.timer := rfl
@[simp] theorem State.reject_sr (c : Cause) : (s.reject c).sr = s.sr := rfl
@[simp] theorem State.reject_bitcnt (c : Cause) : (s.reject c).bitcnt = s.bitcnt := rfl
@[simp] theorem State.reject_isread (c : Cause) : (s.reject c).isread = s.isread := rfl
@[simp] theorem State.reject_rxcnt (c : Cause) : (s.reject c).rxcnt = s.rxcnt := rfl
@[simp] theorem State.reject_rxacc (c : Cause) : (s.reject c).rxacc = s.rxacc := rfl
@[simp] theorem State.reject_rdata (c : Cause) : (s.reject c).rdata = s.rdata := rfl
@[simp] theorem State.reject_errcode (c : Cause) : (s.reject c).errcode = c.code := rfl
@[simp] theorem State.reject_rspv (c : Cause) : (s.reject c).rspv = true := rfl
@[simp] theorem State.reject_host (c : Cause) : (s.reject c).host = s.host := rfl
@[simp] theorem State.reject_din (c : Cause) : (s.reject c).din = s.din := rfl
@[simp] theorem State.reject_tick (c : Cause) : (s.reject c).tick = s.tick := rfl

/-! ### load -/

@[simp] theorem State.load_cfg (f : Frame) (rd : Bool) : (s.load f rd).cfg = s.cfg := rfl
@[simp] theorem State.load_org (f : Frame) (rd : Bool) : (s.load f rd).org = s.org := rfl
@[simp] theorem State.load_phase (f : Frame) (rd : Bool) : (s.load f rd).phase = .setup := rfl
@[simp] theorem State.load_timer (f : Frame) (rd : Bool) : (s.load f rd).timer = BitVec.ofNat 16 (s.cfg.tSetup - 1) := rfl
@[simp] theorem State.load_sr (f : Frame) (rd : Bool) : (s.load f rd).sr = f.value := rfl
@[simp] theorem State.load_bitcnt (f : Frame) (rd : Bool) : (s.load f rd).bitcnt = BitVec.ofNat 6 f.bits := rfl
@[simp] theorem State.load_isread (f : Frame) (rd : Bool) : (s.load f rd).isread = rd := rfl
@[simp] theorem State.load_rxcnt (f : Frame) (rd : Bool) : (s.load f rd).rxcnt = (if rd then BitVec.ofNat 5 s.org.wordWidth else 0) := rfl
@[simp] theorem State.load_rxacc (f : Frame) (rd : Bool) : (s.load f rd).rxacc = 0 := rfl
@[simp] theorem State.load_rdata (f : Frame) (rd : Bool) : (s.load f rd).rdata = s.rdata := rfl
@[simp] theorem State.load_errcode (f : Frame) (rd : Bool) : (s.load f rd).errcode = s.errcode := rfl
@[simp] theorem State.load_rspv (f : Frame) (rd : Bool) : (s.load f rd).rspv = false := rfl
@[simp] theorem State.load_host (f : Frame) (rd : Bool) : (s.load f rd).host = s.host := rfl
@[simp] theorem State.load_din (f : Frame) (rd : Bool) : (s.load f rd).din = s.din := rfl
@[simp] theorem State.load_tick (f : Frame) (rd : Bool) : (s.load f rd).tick = s.tick := rfl

/-! ### resetRegisters -/

@[simp] theorem State.resetRegisters_cfg (o : Org) : (s.resetRegisters o).cfg = s.cfg := rfl
@[simp] theorem State.resetRegisters_org (o : Org) : (s.resetRegisters o).org = o := rfl
@[simp] theorem State.resetRegisters_phase (o : Org) : (s.resetRegisters o).phase = .idle := rfl
@[simp] theorem State.resetRegisters_timer (o : Org) : (s.resetRegisters o).timer = 0 := rfl
@[simp] theorem State.resetRegisters_sr (o : Org) : (s.resetRegisters o).sr = 0 := rfl
@[simp] theorem State.resetRegisters_bitcnt (o : Org) : (s.resetRegisters o).bitcnt = 0 := rfl
@[simp] theorem State.resetRegisters_isread (o : Org) : (s.resetRegisters o).isread = false := rfl
@[simp] theorem State.resetRegisters_rxcnt (o : Org) : (s.resetRegisters o).rxcnt = 0 := rfl
@[simp] theorem State.resetRegisters_rxacc (o : Org) : (s.resetRegisters o).rxacc = 0 := rfl
@[simp] theorem State.resetRegisters_rdata (o : Org) : (s.resetRegisters o).rdata = 0 := rfl
@[simp] theorem State.resetRegisters_errcode (o : Org) : (s.resetRegisters o).errcode = 0 := rfl
@[simp] theorem State.resetRegisters_rspv (o : Org) : (s.resetRegisters o).rspv = false := rfl
@[simp] theorem State.resetRegisters_host (o : Org) : (s.resetRegisters o).host = s.host := rfl
@[simp] theorem State.resetRegisters_din (o : Org) : (s.resetRegisters o).din = s.din := rfl
@[simp] theorem State.resetRegisters_tick (o : Org) : (s.resetRegisters o).tick = s.tick := rfl

end Sys2Proof.Machine
end

