-- ==== Sys2Proof/Laws/Encoder.lean ====
section
/-! SUPPORT. The encoder and the command port: what each can answer. -/

namespace Sys2Proof

@[simp] theorem Command.ofCode_code (c : Command) : Command.ofCode c.code = some c := by
  cases c <;> decide

/-- A code names a command exactly when it is that command's code. -/
theorem Command.ofCode_eq_some {op : BitVec 3} {c : Command} (h : Command.ofCode op = some c) : op = c.code := by
  have := List.find?_some h
  simpa using (beq_iff_eq.mp this).symm

/-- The reserved code is the only one that names no command. -/
theorem Command.ofCode_eq_none {op : BitVec 3} : Command.ofCode op = none ↔ op = 7 := by
  revert op
  decide

theorem fits_iff (v : Operand) (w : Nat) : fits v w = true ↔ v.toNat < 2 ^ w := by simp [fits]

@[simp] theorem instrOf_org (org : Org) (c : Command) (a d : Operand) : (instrOf org c a d).org = org := by
  cases org <;> cases c <;> rfl

@[simp] theorem instrOf_command (org : Org) (c : Command) (a d : Operand) : (instrOf org c a d).command = c := by
  cases org <;> cases c <;> rfl

/-- An instruction is the one its own fields name. -/
theorem instrOf_fields (i : Instr) : instrOf i.org i.command i.addr i.data = i := by cases i <;> rfl

theorem instrOf_addr (org : Org) (c : Command) (a d : Operand) :
    (instrOf org c a d).addr = if c.usesAddr then a else 0 := by
  cases org <;> cases c <;> rfl

theorem instrOf_data (org : Org) (c : Command) (a d : Operand) :
    (instrOf org c a d).data = if c.usesData then d else 0 := by
  cases org <;> cases c <;> rfl

/-- What the command-port decoder can answer. -/
theorem decodePort_ok {org : Org} {op : BitVec 3} {a d : Operand} {i : Instr} (h : decodePort org op a d = .ok i) :
    ∃ c, op = c.code ∧ i = instrOf org c a d := by
  unfold decodePort at h
  split at h
  · rename_i c hc
    exact ⟨c, Command.ofCode_eq_some hc, by injection h with h; exact h.symm⟩
  · cases h

theorem decodePort_error {org : Org} {op : BitVec 3} {a d : Operand} {e : DecodeError}
    (h : decodePort org op a d = .error e) : op = 7 ∧ e = .reservedCode := by
  unfold decodePort at h
  split at h
  · cases h
  · rename_i hc
    exact ⟨Command.ofCode_eq_none.mp hc, by injection h with h; exact h.symm⟩

theorem decodePort_code (org : Org) (c : Command) (a d : Operand) :
    decodePort org c.code a d = .ok (instrOf org c a d) := by
  simp [decodePort]

namespace Machine

/-- What validation looks at: an operand the command does not use is not examined (R72, R102, R103). -/
theorem validate_ignores (org : Org) (c : Command) (a d : Operand) :
    validate org c (if c.usesAddr then a else 0) (if c.usesData then d else 0) = validate org c a d := by
  cases c <;> simp [validate, outOfRange, Command.usesAddr, Command.usesData]

theorem packFrame_ignores (t : OpcodeTable) (org : Org) (c : Command) (a d : Operand) :
    packFrame t org c (if c.usesAddr then a else 0) (if c.usesData then d else 0) = packFrame t org c a d := by
  cases c <;> simp [packFrame, layout, fieldAt, Command.usesAddr, Command.usesData]

/-- The encoder sees only the operands the command uses (R72, R113(e)). -/
theorem encode_ignores (t : OpcodeTable) (org : Org) (c : Command) (a d : Operand) :
    encode t org c.code (if c.usesAddr then a else 0) (if c.usesData then d else 0) = encode t org c.code a d := by
  simp only [encode, Command.ofCode_code, validate_ignores, packFrame_ignores]

/-- What the encoder can answer (R100 to R105): a rejection with the first cause that applies, or the packed frame. -/
theorem encode_cases (t : OpcodeTable) (org : Org) (op : BitVec 3) (a d : Operand) :
    (op = 7 ∧ encode t org op a d = .error .opcode) ∨
      (∃ c, op = c.code ∧
        ((∃ cause, validate org c a d = some cause ∧ encode t org op a d = .error cause) ∨
          (validate org c a d = none ∧ encode t org op a d = .ok (packFrame t org c a d)))) := by
  unfold encode
  split
  · exact .inl ⟨Command.ofCode_eq_none.mp ‹_›, rfl⟩
  · rename_i c hc
    refine .inr ⟨c, Command.ofCode_eq_some hc, ?_⟩
    split
    · rename_i cause hv
      exact .inl ⟨cause, hv, rfl⟩
    · exact .inr ⟨‹_›, rfl⟩

/-- A frame the encoder gives is the packed frame of a command whose operands are in range. -/
theorem encode_ok {t : OpcodeTable} {org : Org} {op : BitVec 3} {a d : Operand} {f : Frame}
    (h : encode t org op a d = .ok f) :
    ∃ c, op = c.code ∧ validate org c a d = none ∧ f = packFrame t org c a d := by
  obtain ⟨-, he⟩ | ⟨c, hc, ⟨_, -, he⟩ | ⟨hv, he⟩⟩ := encode_cases t org op a d
  · rw [he] at h; cases h
  · rw [he] at h; cases h
  · rw [he] at h
    exact ⟨c, hc, hv, by injection h with h; exact h.symm⟩

theorem outOfRange_eq_false (u : Bool) (v : Operand) (w : Nat) :
    outOfRange u v w = false ↔ (u = true → v.toNat < 2 ^ w) := by
  cases u <;> simp [outOfRange, fits]

/-- Validation passes exactly where every used operand fits (R102, R103). -/
theorem validate_eq_none (org : Org) (c : Command) (a d : Operand) :
    validate org c a d = none ↔
      (c.usesAddr = true → a.toNat < 2 ^ org.addrWidth) ∧ (c.usesData = true → d.toNat < 2 ^ org.wordWidth) := by
  rw [← outOfRange_eq_false, ← outOfRange_eq_false, validate]
  cases outOfRange c.usesAddr a org.addrWidth <;> cases outOfRange c.usesData d org.wordWidth <;> simp

/-- A well-formed instruction is one whose operands the encoder accepts. -/
theorem wellFormed_iff (i : Instr) : i.wellFormed = true ↔ validate i.org i.command i.addr i.data = none := by
  rw [validate_eq_none]
  cases i <;> simp [Instr.wellFormed, fits, Instr.org, Instr.command, Instr.addr, Instr.data, Command.usesAddr,
    Command.usesData, Org.addrWidth, Org.wordWidth]

/-- The bit-count of a packed frame is its row's (R79). -/
theorem packFrame_bits (t : OpcodeTable) (org : Org) (c : Command) (a d : Operand) :
    (packFrame t org c a d).bits = frameBits org c := rfl

/-- The bit-counts of R76. -/
theorem frameBits_range (org : Org) (c : Command) : 9 ≤ frameBits org c ∧ frameBits org c ≤ 25 := by
  cases org <;> cases c <;> decide

end Machine

end Sys2Proof
end

