-- ==== Sys2Proof/Laws/Environment.lean ====
section
/-! SUPPORT. The environment's inputs: a tick moves them on by one, and no other update touches them. -/

namespace Sys2Proof.Machine

/-- Inputs depend on the environment's fields alone. -/
theorem State.hostAt_congr {s t : State} (hh : t.host = s.host) (ht : t.tick = s.tick) (k : Nat) :
    t.hostAt k = s.hostAt k := by
  simp [State.hostAt, hh, ht]

theorem State.dinAt_congr {s t : State} (hd : t.din = s.din) (ht : t.tick = s.tick) (k : Nat) :
    t.dinAt k = s.dinAt k := by
  simp [State.dinAt, hd, ht]

/-- The inputs of a later state are the later inputs of this one. -/
theorem State.hostAt_of_passed {s t : State} {n : Nat} (hh : t.host = s.host.drop n) (ht : t.tick = s.tick + n) (k : Nat) :
    t.hostAt k = s.hostAt (n + k) := by
  simp [State.hostAt, hh, ht, Nat.add_assoc]

theorem State.dinAt_of_passed {s t : State} {n : Nat} (hd : t.din = s.din.drop n) (ht : t.tick = s.tick + n) (k : Nat) :
    t.dinAt k = s.dinAt (n + k) := by
  simp [State.dinAt, hd, ht, Nat.add_assoc]

@[simp] theorem State.hostAt_passTick (s : State) (k : Nat) : s.passTick.hostAt k = s.hostAt (1 + k) :=
  State.hostAt_of_passed (by simp) (by simp) k

@[simp] theorem State.dinAt_passTick (s : State) (k : Nat) : s.passTick.dinAt k = s.dinAt (1 + k) :=
  State.dinAt_of_passed (by simp) (by simp) k

@[simp] theorem State.passTicks_zero (s : State) : s.passTicks 0 = s := rfl

theorem State.passTicks_one (s : State) : s.passTicks 1 = s.passTick := by
  simp [State.passTicks, State.passTick]

theorem State.passTicks_passTicks (s : State) (j k : Nat) : (s.passTicks j).passTicks k = s.passTicks (j + k) := by
  simp [State.passTicks, Nat.add_assoc]

/-- A listed input is this tick's input. -/
@[simp] theorem State.hostAt_cons (s : State) (x : HostInput) (xs : List HostInput) :
    ({ s with host := x :: xs } : State).hostAt 0 = x := rfl

@[simp] theorem State.dinAt_cons (s : State) (x : Level) (xs : List Level) :
    ({ s with din := x :: xs } : State).dinAt 0 = x := rfl

/-- A phase's registers change without touching the configuration, ORG or the environment. -/
structure SameEnvironment (s t : State) : Prop where
  cfg : t.cfg = s.cfg
  org : t.org = s.org
  host : t.host = s.host
  din : t.din = s.din
  tick : t.tick = s.tick

theorem State.sample_cases (s : State) :
    (s.timer = BitVec.ofNat 16 (s.cfg.tHalf - 1) ∧ s.sample = { s with rxacc := shiftIn s.rxacc (s.dinAt 0) }) ∨
      (s.timer ≠ BitVec.ofNat 16 (s.cfg.tHalf - 1) ∧ s.sample = s) := by
  unfold State.sample
  split
  · exact .inl ⟨‹_›, rfl⟩
  · exact .inr ⟨‹_›, rfl⟩

theorem State.phaseTick_sameEnvironment (s : State) : SameEnvironment s s.phaseTick := by
  have enter_same : ∀ (t : State) p d, SameEnvironment s t → SameEnvironment s (t.enter p d) := by
    intro t p d h
    exact ⟨h.cfg, h.org, h.host, h.din, h.tick⟩
  have timed_same : ∀ (t : State) (g : State → State), SameEnvironment s t →
      SameEnvironment s (g t) → SameEnvironment s (State.timed g t) := by
    intro t g h hg
    unfold State.timed
    split
    · exact ⟨h.cfg, h.org, h.host, h.din, h.tick⟩
    · exact hg
  have self : SameEnvironment s s := ⟨rfl, rfl, rfl, rfl, rfl⟩
  unfold State.phaseTick
  split
  · exact ⟨rfl, rfl, rfl, rfl, rfl⟩
  · refine timed_same s _ self ?_
    split
    · exact enter_same _ _ _ self
    · split <;> exact enter_same _ _ _ self
  · exact timed_same s _ self (enter_same _ _ _ self)
  · refine timed_same s _ self ?_
    dsimp only
    split
    · exact enter_same _ _ _ ⟨rfl, rfl, rfl, rfl, rfl⟩
    · split <;> exact enter_same _ _ _ ⟨rfl, rfl, rfl, rfl, rfl⟩
  · exact timed_same s _ self (enter_same _ _ _ self)
  · exact timed_same s _ self (enter_same _ _ _ self)
  · have hs : SameEnvironment s s.sample := by
      obtain ⟨-, h⟩ | ⟨-, h⟩ := s.sample_cases <;> rw [h] <;> exact ⟨rfl, rfl, rfl, rfl, rfl⟩
    exact timed_same _ _ hs (enter_same _ _ _ hs)
  · refine timed_same s _ self ?_
    dsimp only
    split <;> exact enter_same _ _ _ ⟨rfl, rfl, rfl, rfl, rfl⟩
  · exact timed_same s _ self ⟨rfl, rfl, rfl, rfl, rfl⟩

end Sys2Proof.Machine
end

