-- ==== Sys2Proof/Laws/PerInstr.lean ====
section
/-! SUPPORT. Facts about every instruction as syntax, one lemma for each constructor. -/

namespace Sys2Proof.Laws

/-- The bit-count of an instruction's frame is its row's N, under any OPCODE_TABLE (R76, R113(a)). -/
def FrameLength.Statement (i : Instr) : Prop :=
  ∀ t : OpcodeTable, (encodeInstr t i).bits = frameBits i.org i.command ∧ (encodeInstr t i).wire.length = frameBits i.org i.command

theorem FrameLength.of (i : Instr) : FrameLength.Statement i := fun t =>
  ⟨rfl, by simp [Frame.wire, encodeInstr, packFrame, layout]⟩

theorem FrameLength.writeDisableX16 : FrameLength.Statement .writeDisableX16 := FrameLength.of _
theorem FrameLength.writeAllX16 (d : Operand) : FrameLength.Statement (.writeAllX16 d) := FrameLength.of _
theorem FrameLength.eraseAllX16 : FrameLength.Statement .eraseAllX16 := FrameLength.of _
theorem FrameLength.writeEnableX16 : FrameLength.Statement .writeEnableX16 := FrameLength.of _
theorem FrameLength.writeX16 (a d : Operand) : FrameLength.Statement (.writeX16 a d) := FrameLength.of _
theorem FrameLength.readX16 (a : Operand) : FrameLength.Statement (.readX16 a) := FrameLength.of _
theorem FrameLength.eraseX16 (a : Operand) : FrameLength.Statement (.eraseX16 a) := FrameLength.of _
theorem FrameLength.writeDisableX8 : FrameLength.Statement .writeDisableX8 := FrameLength.of _
theorem FrameLength.writeAllX8 (d : Operand) : FrameLength.Statement (.writeAllX8 d) := FrameLength.of _
theorem FrameLength.eraseAllX8 : FrameLength.Statement .eraseAllX8 := FrameLength.of _
theorem FrameLength.writeEnableX8 : FrameLength.Statement .writeEnableX8 := FrameLength.of _
theorem FrameLength.writeX8 (a d : Operand) : FrameLength.Statement (.writeX8 a d) := FrameLength.of _
theorem FrameLength.readX8 (a : Operand) : FrameLength.Statement (.readX8 a) := FrameLength.of _
theorem FrameLength.eraseX8 (a : Operand) : FrameLength.Statement (.eraseX8 a) := FrameLength.of _

/-- The port transfer of an instruction decodes to it under its organization (R70 to R72). -/
def PortTransfer.Statement (i : Instr) : Prop :=
  decodePort i.org i.transfer.cmdOp i.transfer.cmdAddr i.transfer.cmdData = .ok i

theorem PortTransfer.writeDisableX16 : PortTransfer.Statement .writeDisableX16 := rfl
theorem PortTransfer.writeAllX16 (d : Operand) : PortTransfer.Statement (.writeAllX16 d) := rfl
theorem PortTransfer.eraseAllX16 : PortTransfer.Statement .eraseAllX16 := rfl
theorem PortTransfer.writeEnableX16 : PortTransfer.Statement .writeEnableX16 := rfl
theorem PortTransfer.writeX16 (a d : Operand) : PortTransfer.Statement (.writeX16 a d) := rfl
theorem PortTransfer.readX16 (a : Operand) : PortTransfer.Statement (.readX16 a) := rfl
theorem PortTransfer.eraseX16 (a : Operand) : PortTransfer.Statement (.eraseX16 a) := rfl
theorem PortTransfer.writeDisableX8 : PortTransfer.Statement .writeDisableX8 := rfl
theorem PortTransfer.writeAllX8 (d : Operand) : PortTransfer.Statement (.writeAllX8 d) := rfl
theorem PortTransfer.eraseAllX8 : PortTransfer.Statement .eraseAllX8 := rfl
theorem PortTransfer.writeEnableX8 : PortTransfer.Statement .writeEnableX8 := rfl
theorem PortTransfer.writeX8 (a d : Operand) : PortTransfer.Statement (.writeX8 a d) := rfl
theorem PortTransfer.readX8 (a : Operand) : PortTransfer.Statement (.readX8 a) := rfl
theorem PortTransfer.eraseX8 (a : Operand) : PortTransfer.Statement (.eraseX8 a) := rfl

end Sys2Proof.Laws
end

