-- ==== Sys2Proof/Laws/Step.lean ====
section
/-! SUPPORT. What a step can do, said once. -/

namespace Sys2Proof.Machine

/-- Every meaning is the tick with its command on the port. -/
theorem exec_eq (i : Instr) (s : State) : exec i s = .next (s.commandTick i.command.code i.addr i.data) := by
  cases i <;> rfl

/-- The command tick sees only the operands the command uses. -/
theorem State.commandTick_instrOf (s : State) (org : Org) (c : Command) (a d : Operand) :
    s.commandTick c.code (instrOf org c a d).addr (instrOf org c a d).data = s.commandTick c.code a d := by
  simp only [State.commandTick, State.accept, instrOf_addr, instrOf_data, encode_ignores]

theorem State.accepts_iff (s : State) :
    s.accepts = true ↔ s.phase = .idle ∧ (s.hostAt 0).rst = false ∧ (s.hostAt 0).cmdValid = true := by
  simp [State.accepts, State.cmdReady, State.busy, and_assoc]

theorem State.cmdReady_iff (s : State) : s.cmdReady = true ↔ s.phase = .idle ∧ (s.hostAt 0).rst = false := by
  simp [State.cmdReady, State.busy]

theorem step_illegal {s : State} (h : s.cfg.legal = false) : step s = .refused .illegalConfiguration := by
  simp [step, h]

/-- A tick that accepts a command is the command's tick, the reserved code included. -/
theorem step_accepts {s : State} (hl : s.cfg.legal = true) (ha : s.accepts = true) :
    step s = .next (s.accept (s.hostAt 0).cmdOp (s.hostAt 0).cmdAddr (s.hostAt 0).cmdData).passTick := by
  have hr : s.cmdReady = true := by rw [State.cmdReady_iff]; rw [State.accepts_iff] at ha; exact ⟨ha.1, ha.2.1⟩
  simp only [step, hl, State.presented, ha, if_true]
  cases hd : decodePort s.org (s.hostAt 0).cmdOp (s.hostAt 0).cmdAddr (s.hostAt 0).cmdData with
  | error e => simp [State.reservedTick, State.commandTick, hr]
  | ok i =>
    obtain ⟨c, hc, rfl⟩ := decodePort_ok hd
    simp only [exec_eq, instrOf_command, State.commandTick_instrOf, hc]
    simp [State.commandTick, hr]

/-- A tick that accepts nothing. -/
theorem step_plain {s : State} (hl : s.cfg.legal = true) (ha : s.accepts = false) : step s = .next s.plainTick := by
  simp [step, hl, State.presented, ha]

/-- The step on a legal configuration always goes on. -/
theorem step_legal {s : State} (hl : s.cfg.legal = true) : ∃ t, step s = .next t := by
  cases ha : s.accepts
  · exact ⟨_, step_plain hl ha⟩
  · exact ⟨_, step_accepts hl ha⟩

/-- Everything a step that goes on can do: a reset, an accepted command, or the tick of the phase. -/
theorem step_cases {s t : State} (h : step s = .next t) :
    s.cfg.legal = true ∧
      (((s.hostAt 0).rst = true ∧ t = (s.resetRegisters (Org.ofLevel (s.hostAt 0).org)).passTick) ∨
        (s.accepts = true ∧
          t = (s.accept (s.hostAt 0).cmdOp (s.hostAt 0).cmdAddr (s.hostAt 0).cmdData).passTick) ∨
        ((s.hostAt 0).rst = false ∧ s.accepts = false ∧ t = s.phaseTick.passTick)) := by
  cases hl : s.cfg.legal
  · rw [step_illegal hl] at h; cases h
  refine ⟨rfl, ?_⟩
  cases ha : s.accepts
  · rw [step_plain hl ha] at h
    injection h with h
    unfold State.plainTick at h
    split at h
    · exact .inl ⟨‹_›, h.symm⟩
    · rename_i hr
      exact .inr (.inr ⟨by simpa using hr, rfl, h.symm⟩)
  · rw [step_accepts hl ha] at h
    injection h with h
    exact .inr (.inl ⟨rfl, h.symm⟩)

/-- What acceptance can do: a rejection with the encoder's cause, or the load of the encoder's frame (R151). -/
theorem State.accept_cases (s : State) (op : BitVec 3) (a d : Operand) :
    (∃ cause, encode s.cfg.opcodes s.org op a d = .error cause ∧ s.accept op a d = s.reject cause) ∨
      (∃ f, encode s.cfg.opcodes s.org op a d = .ok f ∧ s.accept op a d = s.load f (op == Command.read.code)) := by
  unfold State.accept
  split
  · rename_i c h; exact .inl ⟨c, h, rfl⟩
  · rename_i f h; exact .inr ⟨f, h, rfl⟩

theorem isRead_eq_code (c : Command) : (c.code == Command.read.code) = c.isRead := by cases c <;> decide

/-- A step never changes the configuration and moves the environment on by one tick. -/
theorem step_environment {s t : State} (h : step s = .next t) :
    t.cfg = s.cfg ∧ t.host = s.host.tail ∧ t.din = s.din.tail ∧ t.tick = s.tick + 1 := by
  obtain ⟨-, ⟨-, rfl⟩ | ⟨-, rfl⟩ | ⟨-, -, rfl⟩⟩ := step_cases h
  · simp
  · obtain ⟨c, -, h⟩ | ⟨f, -, h⟩ := s.accept_cases (s.hostAt 0).cmdOp (s.hostAt 0).cmdAddr (s.hostAt 0).cmdData <;>
      simp [h]
  · have e := s.phaseTick_sameEnvironment
    simp [e.cfg, e.host, e.din, e.tick]

end Sys2Proof.Machine
end

