-- ==== Sys2Proof/Laws/Phases.lean ====
section
/-! SUPPORT. What the tick of a phase can do, said once, and the tick of every phase in its own words. -/

namespace Sys2Proof.Machine

/-- RXACC after a tick of a timed phase: a sample in RXL (R183), unchanged elsewhere. -/
def State.nextAcc (s : State) : DataWord := if s.phase = .rxl then s.sample.rxacc else s.rxacc

/-- Every way the registers can change in a tick with `rst = 0` that accepts no command: the count-down of a timed
phase, or one of the ends of a phase. -/
inductive PhaseStep (s : State) : State → Prop where
  | idle (hp : s.phase = .idle) : PhaseStep s { s with rspv := false }
  | count (hp : s.phase ≠ .idle) (ht : 0 < s.timer) : PhaseStep s { s with timer := s.timer - 1, rxacc := s.nextAcc }
  | setupBits (hp : s.phase = .setup) (ht : s.timer = 0) (hb : s.bitcnt ≠ 0) : PhaseStep s (s.enter .txl s.cfg.tHalf)
  | setupDummy (hp : s.phase = .setup) (ht : s.timer = 0) (hb : s.bitcnt = 0) (hr : s.isread = true) :
      PhaseStep s (s.enter .dml s.cfg.tHalf)
  | setupHold (hp : s.phase = .setup) (ht : s.timer = 0) (hb : s.bitcnt = 0) (hr : s.isread = false) :
      PhaseStep s (s.enter .hold s.cfg.tHold)
  | txl (hp : s.phase = .txl) (ht : s.timer = 0) : PhaseStep s (s.enter .txh s.cfg.tHalf)
  | txhNext (hp : s.phase = .txh) (ht : s.timer = 0) (hb : s.bitcnt ≠ 1) :
      PhaseStep s (State.enter .txl s.cfg.tHalf { s with bitcnt := s.bitcnt - 1 })
  | txhDummy (hp : s.phase = .txh) (ht : s.timer = 0) (hb : s.bitcnt = 1) (hr : s.isread = true) :
      PhaseStep s (State.enter .dml s.cfg.tHalf { s with bitcnt := 0 })
  | txhHold (hp : s.phase = .txh) (ht : s.timer = 0) (hb : s.bitcnt = 1) (hr : s.isread = false) :
      PhaseStep s (State.enter .hold s.cfg.tHold { s with bitcnt := 0 })
  | dml (hp : s.phase = .dml) (ht : s.timer = 0) : PhaseStep s (s.enter .dmh s.cfg.tHalf)
  | dmh (hp : s.phase = .dmh) (ht : s.timer = 0) : PhaseStep s (s.enter .rxl s.cfg.tHalf)
  | rxl (hp : s.phase = .rxl) (ht : s.timer = 0) :
      PhaseStep s (State.enter .rxh s.cfg.tHalf { s with rxacc := s.nextAcc })
  | rxhNext (hp : s.phase = .rxh) (ht : s.timer = 0) (hb : s.rxcnt ≠ 1) :
      PhaseStep s (State.enter .rxl s.cfg.tHalf { s with rxcnt := s.rxcnt - 1 })
  | rxhHold (hp : s.phase = .rxh) (ht : s.timer = 0) (hb : s.rxcnt = 1) :
      PhaseStep s (State.enter .hold s.cfg.tHold { s with rxcnt := 0 })
  | hold (hp : s.phase = .hold) (ht : s.timer = 0) :
      PhaseStep s { s with
        phase := .idle
        rdata := if s.isread then readResult s.org s.rxacc else s.rdata
        errcode := 0
        rspv := true }

theorem State.timed_pos {s : State} (g : State → State) (h : 0 < s.timer) : State.timed g s = { s with timer := s.timer - 1 } :=
  if_pos h

theorem State.timed_zero {s : State} (g : State → State) (h : s.timer = 0) : State.timed g s = g s :=
  if_neg (by simp [h])

theorem timer_zero_or_pos (x : BitVec 16) : x = 0 ∨ 0 < x := by
  rcases Nat.eq_zero_or_pos x.toNat with h | h
  · left; bv_omega
  · right; bv_omega

/-- The tick of a timed phase counts down while TIMER > 0 (R28). -/
theorem State.phaseTick_count {s : State} (hp : s.phase ≠ .idle) (ht : 0 < s.timer) :
    s.phaseTick = { s with timer := s.timer - 1, rxacc := s.nextAcc } := by
  unfold State.phaseTick
  cases h : s.phase <;> simp only [State.nextAcc, h]
  case idle => exact absurd h hp
  case rxl =>
    have hs : 0 < s.sample.timer := by
      obtain ⟨-, e⟩ | ⟨-, e⟩ := s.sample_cases <;> rw [e] <;> exact ht
    rw [State.rxlTick, State.timed_pos _ hs]
    obtain ⟨-, e⟩ | ⟨-, e⟩ := s.sample_cases <;> simp [e, h]
  all_goals
    first
      | rw [State.setupTick, State.timed_pos _ ht] | rw [State.txlTick, State.timed_pos _ ht]
      | rw [State.txhTick, State.timed_pos _ ht] | rw [State.dmlTick, State.timed_pos _ ht]
      | rw [State.dmhTick, State.timed_pos _ ht] | rw [State.rxhTick, State.timed_pos _ ht]
      | rw [State.holdTick, State.timed_pos _ ht]
    simp [h]

theorem State.phaseTick_idle {s : State} (hp : s.phase = .idle) : s.phaseTick = { s with rspv := false } := by
  rw [show s.phaseTick = s.clearResponse by simp only [State.phaseTick, hp]]; rfl

theorem State.phaseTick_setup {s : State} (hp : s.phase = .setup) (ht : s.timer = 0) :
    s.phaseTick =
      if s.bitcnt ≠ 0 then s.enter .txl s.cfg.tHalf
      else if s.isread then s.enter .dml s.cfg.tHalf else s.enter .hold s.cfg.tHold := by
  rw [show s.phaseTick = s.setupTick by simp only [State.phaseTick, hp]]
  rw [State.setupTick, State.timed_zero _ ht]
  by_cases h : s.bitcnt = 0
  · simp [h]
  · rw [if_pos (by bv_omega), if_pos h]

theorem State.phaseTick_txl {s : State} (hp : s.phase = .txl) (ht : s.timer = 0) :
    s.phaseTick = s.enter .txh s.cfg.tHalf := by
  rw [show s.phaseTick = s.txlTick by simp only [State.phaseTick, hp]]
  rw [State.txlTick, State.timed_zero _ ht]

theorem State.phaseTick_txh {s : State} (hp : s.phase = .txh) (ht : s.timer = 0) :
    s.phaseTick =
      if s.bitcnt ≠ 1 then State.enter .txl s.cfg.tHalf { s with bitcnt := s.bitcnt - 1 }
      else if s.isread then State.enter .dml s.cfg.tHalf { s with bitcnt := 0 }
      else State.enter .hold s.cfg.tHold { s with bitcnt := 0 } := by
  rw [show s.phaseTick = s.txhTick by simp only [State.phaseTick, hp]]
  rw [State.txhTick, State.timed_zero _ ht]
  by_cases h : s.bitcnt = 1
  · simp [h]
  · rw [if_pos (by bv_omega), if_pos h]

theorem State.phaseTick_dml {s : State} (hp : s.phase = .dml) (ht : s.timer = 0) :
    s.phaseTick = s.enter .dmh s.cfg.tHalf := by
  rw [show s.phaseTick = s.dmlTick by simp only [State.phaseTick, hp]]
  rw [State.dmlTick, State.timed_zero _ ht]

theorem State.phaseTick_dmh {s : State} (hp : s.phase = .dmh) (ht : s.timer = 0) :
    s.phaseTick = s.enter .rxl s.cfg.tHalf := by
  rw [show s.phaseTick = s.dmhTick by simp only [State.phaseTick, hp]]
  rw [State.dmhTick, State.timed_zero _ ht]

theorem State.phaseTick_rxl {s : State} (hp : s.phase = .rxl) (ht : s.timer = 0) :
    s.phaseTick = State.enter .rxh s.cfg.tHalf { s with rxacc := s.nextAcc } := by
  rw [show s.phaseTick = s.rxlTick by simp only [State.phaseTick, hp]]
  have hs : s.sample.timer = 0 := by
    obtain ⟨-, e⟩ | ⟨-, e⟩ := s.sample_cases <;> rw [e] <;> exact ht
  rw [State.rxlTick, State.timed_zero _ hs, State.nextAcc, if_pos hp]
  obtain ⟨-, e⟩ | ⟨-, e⟩ := s.sample_cases <;> rw [e]

theorem State.phaseTick_rxh {s : State} (hp : s.phase = .rxh) (ht : s.timer = 0) :
    s.phaseTick =
      if s.rxcnt ≠ 1 then State.enter .rxl s.cfg.tHalf { s with rxcnt := s.rxcnt - 1 }
      else State.enter .hold s.cfg.tHold { s with rxcnt := 0 } := by
  rw [show s.phaseTick = s.rxhTick by simp only [State.phaseTick, hp]]
  rw [State.rxhTick, State.timed_zero _ ht]
  by_cases h : s.rxcnt = 1
  · simp [h]
  · rw [if_pos (by bv_omega), if_pos h]

theorem State.phaseTick_hold {s : State} (hp : s.phase = .hold) (ht : s.timer = 0) :
    s.phaseTick = { s with
      phase := .idle
      rdata := if s.isread then readResult s.org s.rxacc else s.rdata
      errcode := 0
      rspv := true } := by
  rw [show s.phaseTick = s.holdTick by simp only [State.phaseTick, hp]]
  rw [State.holdTick, State.timed_zero _ ht]
  rfl

/-- The tick of a phase is one of its steps. -/
theorem State.phaseTick_step (s : State) : PhaseStep s s.phaseTick := by
  by_cases hi : s.phase = .idle
  · rw [State.phaseTick_idle hi]; exact .idle hi
  rcases timer_zero_or_pos s.timer with ht | ht
  swap
  · rw [State.phaseTick_count hi ht]; exact .count hi ht
  cases hp : s.phase
  case idle => exact absurd hp hi
  case setup =>
    rw [State.phaseTick_setup hp ht]
    split_ifs with h1 h2
    · exact .setupBits hp ht h1
    · exact .setupDummy hp ht (by simpa using h1) h2
    · exact .setupHold hp ht (by simpa using h1) (by simpa using h2)
  case txl => rw [State.phaseTick_txl hp ht]; exact .txl hp ht
  case txh =>
    rw [State.phaseTick_txh hp ht]
    split_ifs with h1 h2
    · exact .txhNext hp ht h1
    · exact .txhDummy hp ht (by simpa using h1) h2
    · exact .txhHold hp ht (by simpa using h1) (by simpa using h2)
  case dml => rw [State.phaseTick_dml hp ht]; exact .dml hp ht
  case dmh => rw [State.phaseTick_dmh hp ht]; exact .dmh hp ht
  case rxl => rw [State.phaseTick_rxl hp ht]; exact .rxl hp ht
  case rxh =>
    rw [State.phaseTick_rxh hp ht]
    split_ifs with h1
    · exact .rxhNext hp ht h1
    · exact .rxhHold hp ht (by simpa using h1)
  case hold => rw [State.phaseTick_hold hp ht]; exact .hold hp ht

theorem State.accepts_of_busy {s : State} (hp : s.phase ≠ .idle) : s.accepts = false := by
  cases ha : s.accepts
  · rfl
  · exact absurd (s.accepts_iff.mp ha).1 hp

/-- The step of a phase in progress. -/
theorem step_busy {s : State} (hl : s.cfg.legal = true) (hp : s.phase ≠ .idle) (hr : (s.hostAt 0).rst = false) :
    step s = .next s.phaseTick.passTick := by
  rw [step_plain hl (State.accepts_of_busy hp), State.plainTick, if_neg (by simp [hr])]

/-- The durations of a legal configuration fit TIMER (R6, R28). -/
theorem Params.legal_durations {p : Params} (h : p.legal = true) :
    (1 ≤ p.tHalf ∧ p.tHalf ≤ 65535) ∧ (1 ≤ p.tSetup ∧ p.tSetup ≤ 65535) ∧ (1 ≤ p.tHold ∧ p.tHold ≤ 65535) := by
  simp only [Params.legal, legalDuration, Bool.and_eq_true, decide_eq_true_eq] at h
  exact ⟨h.1.1.1, h.1.1.2, h.1.2⟩

theorem timer_eq_iff {x : BitVec 16} {n : Nat} (h : n < 65536) : x = BitVec.ofNat 16 n ↔ x.toNat = n := by
  constructor
  · rintro rfl; simp; omega
  · intro hx; bv_omega

end Sys2Proof.Machine
end

