-- ==== Sys2Proof/Laws/Runs.lean ====
section
/-! SUPPORT. Runs of several ticks: a phase from its entry to its end, and how runs compose. -/

namespace Sys2Proof.Machine

@[simp] theorem run_zero (s : State) : run 0 s = .next s := rfl

theorem run_succ_next {s t : State} (h : step s = .next t) (k : Nat) : run (k + 1) s = run k t := by
  have h' : Sys2Proof.core.step s = .next t := h
  unfold run
  simp only [Host.Core.run]
  rw [h']

/-- A run of several ticks that goes on went on in its first. -/
theorem run_succ_inv {s t : State} {k : Nat} (h : run (k + 1) s = .next t) : ∃ u, step s = .next u ∧ run k u = .next t := by
  cases hs : step s with
  | next u => exact ⟨u, rfl, by rw [← run_succ_next hs, h]⟩
  | fault r =>
    have h' : Sys2Proof.core.step s = .fault r := hs
    simp [run, Host.Core.run, h'] at h
  | refused r =>
    have h' : Sys2Proof.core.step s = .refused r := hs
    simp [run, Host.Core.run, h'] at h

theorem run_add {s t : State} {a : Nat} (h : run a s = .next t) (b : Nat) : run (a + b) s = run b t := by
  induction a generalizing s with
  | zero => simp only [run_zero] at h; injection h with h; rw [h, Nat.zero_add]
  | succ a ih =>
    obtain ⟨u, hu, h⟩ := run_succ_inv h
    rw [Nat.add_right_comm, run_succ_next hu, ih h]

theorem pinsDuring_succ {s t : State} (h : step s = .next t) (k : Nat) :
    pinsDuring (k + 1) s = s.pins :: pinsDuring k t := by
  simp [pinsDuring, h]

theorem pinsDuring_add {s t : State} {a : Nat} (h : run a s = .next t) (b : Nat) :
    pinsDuring (a + b) s = pinsDuring a s ++ pinsDuring b t := by
  induction a generalizing s with
  | zero => simp only [run_zero] at h; injection h with h; simp [h, pinsDuring]
  | succ a ih =>
    obtain ⟨u, hu, h⟩ := run_succ_inv h
    rw [Nat.add_right_comm, pinsDuring_succ hu, pinsDuring_succ hu, ih h, List.cons_append]

/-- The host keeps `rst = 0` in this tick and the ones before the `k`-th. -/
def State.QuietFor (k : Nat) (s : State) : Prop := ∀ j, j < k → (s.hostAt j).rst = false

theorem State.QuietFor.mono {s : State} {j k : Nat} (h : s.QuietFor k) (hjk : j ≤ k) : s.QuietFor j :=
  fun i hi => h i (by omega)

theorem State.QuietFor.after {s t : State} {a b : Nat} (h : s.QuietFor (a + b)) (hh : t.host = s.host.drop a)
    (ht : t.tick = s.tick + a) : t.QuietFor b := by
  intro j hj
  rw [State.hostAt_of_passed hh ht]
  exact h _ (by omega)

/-- What every tick inside a command's window leaves alone (R29, R34, R57). -/
structure SameWindow (s v : State) : Prop where
  cfg : v.cfg = s.cfg
  org : v.org = s.org
  sr : v.sr = s.sr
  isread : v.isread = s.isread
  rdata : v.rdata = s.rdata
  errcode : v.errcode = s.errcode
  rspv : v.rspv = s.rspv

theorem SameWindow.refl (s : State) : SameWindow s s := ⟨rfl, rfl, rfl, rfl, rfl, rfl, rfl⟩

theorem SameWindow.trans {s t u : State} (h : SameWindow s t) (g : SameWindow t u) : SameWindow s u :=
  ⟨g.cfg.trans h.cfg, g.org.trans h.org, g.sr.trans h.sr, g.isread.trans h.isread, g.rdata.trans h.rdata,
    g.errcode.trans h.errcode, g.rspv.trans h.rspv⟩

/-- `k` ticks of a command in progress lead from `s` to `t`: the environment moves on by `k`, the lines show `ps`, and
every state before the end is busy and holds the command. -/
structure Runs (s : State) (k : Nat) (t : State) (ps : List Pins) : Prop where
  run : run k s = .next t
  host : t.host = s.host.drop k
  din : t.din = s.din.drop k
  tick : t.tick = s.tick + k
  pins : pinsDuring k s = ps
  inside : ∀ j, j < k → ∃ v, Machine.run j s = .next v ∧ v.phase ≠ .idle ∧ SameWindow s v

theorem Runs.trans {s t u : State} {a b : Nat} {ps qs : List Pins} (h : Runs s a t ps) (hw : SameWindow s t)
    (g : Runs t b u qs) : Runs s (a + b) u (ps ++ qs) where
  run := by rw [run_add h.run]; exact g.run
  host := by rw [g.host, h.host, List.drop_drop]
  din := by rw [g.din, h.din, List.drop_drop]
  tick := by rw [g.tick, h.tick, Nat.add_assoc]
  pins := by rw [pinsDuring_add h.run, h.pins, g.pins]
  inside := by
    intro j hj
    rcases Nat.lt_or_ge j a with hja | hja
    · exact h.inside j hja
    · obtain ⟨v, hv, hp, hs⟩ := g.inside (j - a) (by omega)
      refine ⟨v, ?_, hp, hw.trans hs⟩
      rw [show j = a + (j - a) by omega, run_add h.run, hv]

/-- One tick of a phase in progress. -/
theorem Runs.one {s : State} (hl : s.cfg.legal = true) (hp : s.phase ≠ .idle) (hr : (s.hostAt 0).rst = false) :
    Runs s 1 s.phaseTick.passTick [s.phasePins] where
  run := by rw [run_succ_next (step_busy hl hp hr)]; rfl
  host := by simp [s.phaseTick_sameEnvironment.host]
  din := by simp [s.phaseTick_sameEnvironment.din]
  tick := by simp [s.phaseTick_sameEnvironment.tick]
  pins := by simp [pinsDuring, step_busy hl hp hr, State.pins, hr]
  inside := by
    intro j hj
    obtain rfl : j = 0 := by omega
    exact ⟨s, rfl, hp, SameWindow.refl s⟩

/-- The state `k` ticks into a phase: TIMER has counted down, and in RXL the sample has been taken (R28, R183). -/
def State.inPhase (s : State) (k : Nat) : State :=
  { s.passTicks k with
    timer := s.timer - BitVec.ofNat 16 k
    rxacc := if k = 0 then s.rxacc else s.nextAcc }

/-- The pins of a phase do not depend on TIMER, RXACC or the inputs, where the frame bit is one of SR (R36). -/
theorem State.phasePins_inPhase {s : State} {k : Nat}
    (hb : s.phase = .txl ∨ s.phase = .txh → 1 ≤ s.bitcnt.toNat ∧ s.bitcnt.toNat ≤ 32) :
    (s.inPhase k).phasePins = s.phasePins := by
  have hp : (s.inPhase k).phase = s.phase := rfl
  have e : s.phase = .txl ∨ s.phase = .txh → (s.inPhase k).frameBit = s.frameBit := by
    intro h
    rw [State.frameBit, State.frameBit, if_pos (hb h)]
    exact if_pos (hb h)
  simp only [State.phasePins, hp]
  cases h : s.phase <;> simp_all

/-- A timed phase counts down: `k` ticks into it, for `k` up to TIMER. -/
theorem Runs.count {s : State} (hl : s.cfg.legal = true) (hp : s.phase ≠ .idle)
    (ht : s.timer.toNat = s.phase.duration s.cfg - 1)
    (hb : s.phase = .txl ∨ s.phase = .txh → 1 ≤ s.bitcnt.toNat ∧ s.bitcnt.toNat ≤ 32) :
    ∀ k, k ≤ s.timer.toNat → s.QuietFor k → Runs s k (s.inPhase k) (List.replicate k s.phasePins)
  | 0, _, _ =>
    { run := by simp [State.inPhase]
      host := rfl
      din := rfl
      tick := rfl
      pins := rfl
      inside := fun j hj => absurd hj (Nat.not_lt_zero j) }
  | k + 1, hk, hq => by
    have ih := Runs.count hl hp ht hb k (by omega) (hq.mono (by omega))
    have hr : ((s.inPhase k).hostAt 0).rst = false := by
      rw [State.hostAt_of_passed ih.host ih.tick]
      exact hq _ (by omega)
    have hpos : 0 < (s.inPhase k).timer := by
      show 0 < s.timer - BitVec.ofNat 16 k
      have := s.timer.isLt
      bv_omega
    have one := Runs.one (s := s.inPhase k) hl hp hr
    have hacc : (s.inPhase k).nextAcc = s.nextAcc := by
      unfold State.nextAcc
      show (if s.phase = .rxl then _ else _) = _
      split
      · rename_i hx
        have hd : s.phase.duration s.cfg = s.cfg.tHalf := by rw [hx]; rfl
        have h16 : s.cfg.tHalf - 1 < 65536 := by
          have := (Params.legal_durations hl).1; omega
        have h0 : s.timer = BitVec.ofNat 16 (s.cfg.tHalf - 1) := (timer_eq_iff h16).mpr (by omega)
        by_cases hk0 : k = 0
        · subst hk0
          have : s.inPhase 0 = s := by simp [State.inPhase]
          rw [this]
        · have hne : ¬(s.inPhase k).timer = BitVec.ofNat 16 (s.cfg.tHalf - 1) := by
            show ¬(s.timer - BitVec.ofNat 16 k = _)
            rw [← h0]
            have := s.timer.isLt
            bv_omega
          have e : (s.inPhase k).sample = s.inPhase k := if_neg hne
          rw [e]
          show (if k = 0 then s.rxacc else s.nextAcc) = _
          rw [if_neg hk0, State.nextAcc, if_pos hx]
      · rename_i hx
        show (if k = 0 then s.rxacc else s.nextAcc) = _
        rw [State.nextAcc, if_neg hx]; simp
    have e : (s.inPhase k).phaseTick.passTick = s.inPhase (k + 1) := by
      rw [State.phaseTick_count (s := s.inPhase k) hp hpos, hacc]
      have ht' : s.timer - BitVec.ofNat 16 k - 1 = s.timer - BitVec.ofNat 16 (k + 1) := by
        have := s.timer.isLt
        bv_omega
      simp only [State.inPhase, State.passTick, State.passTicks, ht', Nat.add_assoc, List.tail_drop]
      rfl
    rw [e, State.phasePins_inPhase hb] at one
    have := ih.trans ⟨rfl, rfl, rfl, rfl, rfl, rfl, rfl⟩ one
    rwa [show List.replicate k s.phasePins ++ [s.phasePins] = List.replicate (k + 1) s.phasePins by
      rw [List.replicate_succ']] at this

/-- The accumulator at the end of a phase: RXL has taken its sample (R183). -/
def State.accAfter (s : State) : DataWord := if s.phase = .rxl then shiftIn s.rxacc (s.dinAt 0) else s.rxacc

/-- A phase from its entry to its last tick, and the tick that ends it. -/
theorem Runs.phase {s : State} (hl : s.cfg.legal = true) (hp : s.phase ≠ .idle)
    (ht : s.timer.toNat = s.phase.duration s.cfg - 1)
    (hb : s.phase = .txl ∨ s.phase = .txh → 1 ≤ s.bitcnt.toNat ∧ s.bitcnt.toNat ≤ 32)
    (hq : s.QuietFor (s.phase.duration s.cfg)) :
    ∃ v : State, v.timer = 0 ∧ v = { s.passTicks (s.phase.duration s.cfg - 1) with timer := 0, rxacc := v.rxacc } ∧
      v.nextAcc = s.accAfter ∧
      Runs s (s.phase.duration s.cfg) v.phaseTick.passTick (List.replicate (s.phase.duration s.cfg) s.phasePins) := by
  have hd : 1 ≤ s.phase.duration s.cfg := by
    have := Params.legal_durations hl
    cases h : s.phase <;> simp only [Phase.duration] <;> first | omega | exact absurd h hp
  have hc := Runs.count hl hp ht hb _ (le_refl _) (hq.mono (by omega))
  have h0 : (s.inPhase s.timer.toNat).timer = 0 := by
    show s.timer - BitVec.ofNat 16 s.timer.toNat = 0
    simp
  have hr : ((s.inPhase s.timer.toNat).hostAt 0).rst = false := by
    rw [State.hostAt_of_passed hc.host hc.tick]
    exact hq _ (by omega)
  have one := Runs.one (s := s.inPhase s.timer.toNat) hl hp hr
  rw [State.phasePins_inPhase hb] at one
  have all := hc.trans ⟨rfl, rfl, rfl, rfl, rfl, rfl, rfl⟩ one
  rw [show s.timer.toNat + 1 = s.phase.duration s.cfg by omega,
    show List.replicate s.timer.toNat s.phasePins ++ [s.phasePins] = List.replicate (s.phase.duration s.cfg) s.phasePins by
      rw [← List.replicate_succ', show s.timer.toNat + 1 = s.phase.duration s.cfg by omega]] at all
  refine ⟨s.inPhase s.timer.toNat, h0, ?_, ?_, all⟩
  · rw [← ht]
    show State.mk _ _ _ _ _ _ _ _ _ _ _ _ _ _ _ = State.mk _ _ _ _ _ _ _ _ _ _ _ _ _ _ _
    simp [State.inPhase]
  · unfold State.nextAcc State.accAfter
    show (if s.phase = .rxl then _ else _) = _
    split
    · rename_i hx
      have hdur : s.phase.duration s.cfg = s.cfg.tHalf := by rw [hx]; rfl
      have h16 : s.cfg.tHalf - 1 < 65536 := by
        have := (Params.legal_durations hl).1; omega
      have hst : s.timer = BitVec.ofNat 16 (s.cfg.tHalf - 1) := (timer_eq_iff h16).mpr (by omega)
      by_cases hz : s.timer.toNat = 0
      · have e : s.inPhase s.timer.toNat = s := by
          rw [hz]; simp [State.inPhase]
        rw [e, State.sample, if_pos hst]
      · have hne : ¬(s.inPhase s.timer.toNat).timer = BitVec.ofNat 16 (s.cfg.tHalf - 1) := by
          rw [h0, ← hst]
          intro h
          rw [← h] at hz
          exact hz rfl
        have e : (s.inPhase s.timer.toNat).sample = s.inPhase s.timer.toNat := if_neg hne
        rw [e]
        show (if s.timer.toNat = 0 then s.rxacc else s.nextAcc) = _
        rw [if_neg hz, State.nextAcc, if_pos hx, State.sample, if_pos hst]
    · rename_i hx
      show (if s.timer.toNat = 0 then s.rxacc else s.nextAcc) = _
      rw [State.nextAcc, if_neg hx]; simp

end Sys2Proof.Machine
end

