-- ==== Sys2Proof/Laws/Window.lean ====
section
/-! SUPPORT. A command's window, phase by phase: the state at the entry of every phase, and the run from SETUP to the
response, for any frame the shift engine is given. -/

namespace Sys2Proof.Machine

/-- The state in which phase `p` has just been entered, with its counters and accumulator. -/
def State.put (s : State) (p : Phase) (b r : Nat) (acc : DataWord) : State :=
  { s with
    phase := p
    timer := BitVec.ofNat 16 (p.duration s.cfg - 1)
    bitcnt := BitVec.ofNat 6 b
    rxcnt := BitVec.ofNat 5 r
    rxacc := acc }

/-- The last tick of that phase. -/
def State.lastOf (s : State) (p : Phase) (b r : Nat) (acc : DataWord) : State :=
  { (s.passTicks (p.duration s.cfg - 1)).put p b r acc with timer := 0 }

theorem SameWindow.put (s : State) (k : Nat) {p q : Phase} {b b' r r' : Nat} {acc acc' : DataWord} :
    SameWindow (s.put p b r acc) ((s.passTicks k).put q b' r' acc') := ⟨rfl, rfl, rfl, rfl, rfl, rfl, rfl⟩

theorem Phase.duration_range {p : Params} (hl : p.legal = true) {ph : Phase} (hp : ph ≠ .idle) :
    1 ≤ ph.duration p ∧ ph.duration p ≤ 65535 := by
  have := Params.legal_durations hl
  cases ph <;> simp only [Phase.duration] <;> first | omega | exact absurd rfl hp

variable {s : State} {p q : Phase} {b b' r r' : Nat} {acc acc' : DataWord}

/-- A phase from the tick after its entry to its end. -/
theorem Runs.ofPut (hl : s.cfg.legal = true) (hp : p ≠ .idle) (hb : p = .txl ∨ p = .txh → 1 ≤ b ∧ b ≤ 32)
    (hq : s.QuietFor (p.duration s.cfg)) :
    ∃ acc', (s.lastOf p b r acc').nextAcc = (if p = .rxl then shiftIn acc (s.dinAt 0) else acc) ∧
      Runs (s.put p b r acc) (p.duration s.cfg) (s.lastOf p b r acc').phaseTick.passTick
        (List.replicate (p.duration s.cfg) (s.put p b r acc).phasePins) := by
  have hd := Phase.duration_range hl hp
  obtain ⟨v, h0, hv, ha, hr⟩ := Runs.phase (s := s.put p b r acc) hl hp
    (by show (BitVec.ofNat 16 (p.duration s.cfg - 1)).toNat = p.duration s.cfg - 1; simp; omega)
    (by
      intro h
      have := hb h
      show 1 ≤ (BitVec.ofNat 6 b).toNat ∧ (BitVec.ofNat 6 b).toNat ≤ 32
      simp; omega) hq
  rw [show v = s.lastOf p b r v.rxacc from hv] at ha hr
  exact ⟨_, ha, hr⟩

/-- The same where no sample is taken. -/
theorem Runs.ofPut' (hl : s.cfg.legal = true) (hp : p ≠ .idle) (hx : p ≠ .rxl)
    (hb : p = .txl ∨ p = .txh → 1 ≤ b ∧ b ≤ 32) (hq : s.QuietFor (p.duration s.cfg)) :
    Runs (s.put p b r acc) (p.duration s.cfg) (s.lastOf p b r acc).phaseTick.passTick
      (List.replicate (p.duration s.cfg) (s.put p b r acc).phasePins) := by
  obtain ⟨acc', ha, hr⟩ := Runs.ofPut (r := r) (acc := acc) hl hp hb hq
  rw [if_neg hx, State.nextAcc, show (s.lastOf p b r acc').phase = p from rfl, if_neg hx] at ha
  rwa [show acc' = acc from ha] at hr

theorem State.lastOf_enter (hl : s.cfg.legal = true) (hp : p ≠ .idle) :
    (State.enter q (q.duration s.cfg)
      { s.lastOf p b r acc with bitcnt := BitVec.ofNat 6 b', rxcnt := BitVec.ofNat 5 r', rxacc := acc' }).passTick =
      (s.passTicks (p.duration s.cfg)).put q b' r' acc' := by
  have hd := Phase.duration_range hl hp
  obtain ⟨d, hd⟩ : ∃ e, p.duration s.cfg = e + 1 := ⟨p.duration s.cfg - 1, by omega⟩
  simp only [State.lastOf, State.put, State.enter, State.passTick, State.passTicks, hd, Nat.add_sub_cancel, List.tail_drop,
    Nat.add_assoc]

/-- TXL (R134). -/
theorem Runs.txl (hl : s.cfg.legal = true) (hb : 1 ≤ b) (hb' : b ≤ 32) (hq : s.QuietFor s.cfg.tHalf) :
    Runs (s.put .txl b r acc) s.cfg.tHalf ((s.passTicks s.cfg.tHalf).put .txh b r acc)
      (List.replicate s.cfg.tHalf ⟨true, true, false, s.sr.getLsbD (b - 1)⟩) := by
  have h := Runs.ofPut' (p := .txl) (r := r) (acc := acc) hl (by decide) (by decide) (fun _ => ⟨hb, hb'⟩) hq
  rw [State.phaseTick_txl rfl rfl] at h
  have e := State.lastOf_enter (p := .txl) (q := .txh) (b := b) (r := r) (acc := acc) (b' := b) (r' := r) (acc' := acc) hl (by decide)
  have hpins : (s.put .txl b r acc).phasePins = ⟨true, true, false, s.sr.getLsbD (b - 1)⟩ := by
    have hn : (s.put .txl b r acc).bitcnt.toNat = b := by simp [State.put]; omega
    show Pins.mk _ _ _ (State.frameBit _) = _
    rw [State.frameBit, hn, if_pos ⟨hb, hb'⟩]; rfl
  rw [hpins] at h
  exact e ▸ h

/-- The phase that follows the last frame bit (R135, R152). -/
def State.afterBits (s : State) : Phase := if s.isread then .dml else .hold

@[simp] theorem State.afterBits_passTicks (s : State) (k : Nat) : (s.passTicks k).afterBits = s.afterBits := rfl

/-- TXH (R135). -/
theorem Runs.txh (hl : s.cfg.legal = true) (hb : 1 ≤ b) (hb' : b ≤ 32) (hq : s.QuietFor s.cfg.tHalf) :
    Runs (s.put .txh b r acc) s.cfg.tHalf
      ((s.passTicks s.cfg.tHalf).put (if b = 1 then s.afterBits else .txl) (b - 1) r acc)
      (List.replicate s.cfg.tHalf ⟨true, true, true, s.sr.getLsbD (b - 1)⟩) := by
  have h := Runs.ofPut' (p := .txh) (r := r) (acc := acc) hl (by decide) (by decide) (fun _ => ⟨hb, hb'⟩) hq
  have hn : (s.put .txh b r acc).bitcnt.toNat = b := by simp [State.put]; omega
  have hpins : (s.put .txh b r acc).phasePins = ⟨true, true, true, s.sr.getLsbD (b - 1)⟩ := by
    show Pins.mk _ _ _ (State.frameBit _) = _
    rw [State.frameBit, hn, if_pos ⟨hb, hb'⟩]; rfl
  have hm : (s.lastOf .txh b r acc).bitcnt = BitVec.ofNat 6 b := rfl
  have hm' : BitVec.ofNat 6 b - 1 = BitVec.ofNat 6 (b - 1) := by
    apply BitVec.eq_of_toNat_eq; simp [BitVec.toNat_sub]; omega
  have e := fun q => State.lastOf_enter (p := .txh) (q := q) (b := b) (r := r) (acc := acc) (b' := b - 1) (r' := r)
    (acc' := acc) hl (by decide)
  rw [hpins, State.phaseTick_txh rfl rfl, hm, hm', show (s.lastOf .txh b r acc).isread = s.isread from rfl] at h
  by_cases h1 : b = 1
  · subst h1
    rw [if_neg (by decide)] at h
    rw [if_pos rfl, State.afterBits]
    by_cases hi : s.isread = true
    · rw [if_pos hi] at h ⊢; exact e .dml ▸ h
    · rw [if_neg hi] at h ⊢; exact e .hold ▸ h
  · have : ¬ BitVec.ofNat 6 b = 1 := by
      intro hc; have := congrArg BitVec.toNat hc; simp at this; omega
    rw [if_pos this] at h
    rw [if_neg h1]; exact e .txl ▸ h

/-- DML (R182). -/
theorem Runs.dml (hl : s.cfg.legal = true) (hq : s.QuietFor s.cfg.tHalf) :
    Runs (s.put .dml b r acc) s.cfg.tHalf ((s.passTicks s.cfg.tHalf).put .dmh b r acc)
      (List.replicate s.cfg.tHalf ⟨true, true, false, false⟩) := by
  have h := Runs.ofPut' (p := .dml) (b := b) (r := r) (acc := acc) hl (by decide) (by decide) (by simp) hq
  rw [State.phaseTick_dml rfl rfl] at h
  have e := State.lastOf_enter (p := .dml) (q := .dmh) (b := b) (r := r) (acc := acc) (b' := b) (r' := r) (acc' := acc) hl (by decide)
  exact e ▸ h

/-- DMH (R182). -/
theorem Runs.dmh (hl : s.cfg.legal = true) (hq : s.QuietFor s.cfg.tHalf) :
    Runs (s.put .dmh b r acc) s.cfg.tHalf ((s.passTicks s.cfg.tHalf).put .rxl b r acc)
      (List.replicate s.cfg.tHalf ⟨true, true, true, false⟩) := by
  have h := Runs.ofPut' (p := .dmh) (b := b) (r := r) (acc := acc) hl (by decide) (by decide) (by simp) hq
  rw [State.phaseTick_dmh rfl rfl] at h
  have e := State.lastOf_enter (p := .dmh) (q := .rxl) (b := b) (r := r) (acc := acc) (b' := b) (r' := r) (acc' := acc) hl (by decide)
  exact e ▸ h

/-- RXL (R183): the sample of its first tick. -/
theorem Runs.rxl (hl : s.cfg.legal = true) (hq : s.QuietFor s.cfg.tHalf) :
    Runs (s.put .rxl b r acc) s.cfg.tHalf ((s.passTicks s.cfg.tHalf).put .rxh b r (shiftIn acc (s.dinAt 0)))
      (List.replicate s.cfg.tHalf ⟨true, true, false, false⟩) := by
  obtain ⟨acc', ha, h⟩ := Runs.ofPut (p := .rxl) (b := b) (r := r) (acc := acc) hl (by decide) (by simp) hq
  rw [State.phaseTick_rxl rfl rfl, ha] at h
  have e := State.lastOf_enter (p := .rxl) (q := .rxh) (b := b) (r := r) (acc := acc') (b' := b) (r' := r)
    (acc' := shiftIn acc (s.dinAt 0)) hl (by decide)
  exact e ▸ h

/-- RXH (R184). -/
theorem Runs.rxh (hl : s.cfg.legal = true) (hr : 1 ≤ r) (hr' : r ≤ 16) (hq : s.QuietFor s.cfg.tHalf) :
    Runs (s.put .rxh b r acc) s.cfg.tHalf
      ((s.passTicks s.cfg.tHalf).put (if r = 1 then .hold else .rxl) b (r - 1) acc)
      (List.replicate s.cfg.tHalf ⟨true, true, true, false⟩) := by
  have h := Runs.ofPut' (p := .rxh) (b := b) (r := r) (acc := acc) hl (by decide) (by decide) (by simp) hq
  have hm : (s.lastOf .rxh b r acc).rxcnt = BitVec.ofNat 5 r := rfl
  have hm' : BitVec.ofNat 5 r - 1 = BitVec.ofNat 5 (r - 1) := by
    apply BitVec.eq_of_toNat_eq; simp [BitVec.toNat_sub]; omega
  have e := fun q => State.lastOf_enter (p := .rxh) (q := q) (b := b) (r := r) (acc := acc) (b' := b) (r' := r - 1)
    (acc' := acc) hl (by decide)
  rw [State.phaseTick_rxh rfl rfl, hm, hm'] at h
  by_cases h1 : r = 1
  · subst h1
    rw [if_neg (by decide)] at h
    rw [if_pos rfl]; exact e .hold ▸ h
  · have : ¬ BitVec.ofNat 5 r = 1 := by
      intro hc; have := congrArg BitVec.toNat hc; simp at this; omega
    rw [if_pos this] at h
    rw [if_neg h1]; exact e .rxl ▸ h

/-- SETUP (R152). -/
theorem Runs.setup (hl : s.cfg.legal = true) (hb' : b ≤ 32) (hq : s.QuietFor s.cfg.tSetup) :
    Runs (s.put .setup b r acc) s.cfg.tSetup
      ((s.passTicks s.cfg.tSetup).put (if b = 0 then s.afterBits else .txl) b r acc)
      (List.replicate s.cfg.tSetup ⟨true, true, false, false⟩) := by
  have h := Runs.ofPut' (p := .setup) (b := b) (r := r) (acc := acc) hl (by decide) (by decide) (by simp) hq
  have hm : (s.lastOf .setup b r acc).bitcnt = BitVec.ofNat 6 b := rfl
  have e := fun q => State.lastOf_enter (p := .setup) (q := q) (b := b) (r := r) (acc := acc) (b' := b) (r' := r)
    (acc' := acc) hl (by decide)
  rw [State.phaseTick_setup rfl rfl, hm, show (s.lastOf .setup b r acc).isread = s.isread from rfl] at h
  by_cases h1 : b = 0
  · subst h1
    rw [if_neg (by decide)] at h
    rw [if_pos rfl, State.afterBits]
    by_cases hi : s.isread = true
    · rw [if_pos hi] at h ⊢; exact e .dml ▸ h
    · rw [if_neg hi] at h ⊢; exact e .hold ▸ h
  · have : BitVec.ofNat 6 b ≠ 0 := by
      intro hc; have := congrArg BitVec.toNat hc; simp at this; omega
    rw [if_pos this] at h
    rw [if_neg h1]; exact e .txl ▸ h

/-- The state at a successful response (R153). -/
def State.responded (s : State) (b r : Nat) (acc : DataWord) : State :=
  { s with
    phase := .idle
    timer := 0
    bitcnt := BitVec.ofNat 6 b
    rxcnt := BitVec.ofNat 5 r
    rxacc := acc
    rdata := if s.isread then readResult s.org acc else s.rdata
    errcode := 0
    rspv := true }

/-- HOLD (R153). -/
theorem Runs.hold (hl : s.cfg.legal = true) (hq : s.QuietFor s.cfg.tHold) :
    Runs (s.put .hold b r acc) s.cfg.tHold ((s.passTicks s.cfg.tHold).responded b r acc)
      (List.replicate s.cfg.tHold ⟨true, true, false, false⟩) := by
  have h := Runs.ofPut' (p := .hold) (b := b) (r := r) (acc := acc) hl (by decide) (by decide) (by simp) hq
  rw [State.phaseTick_hold rfl rfl] at h
  have hd := Params.legal_durations hl
  obtain ⟨d, hd⟩ : ∃ e, s.cfg.tHold = e + 1 := ⟨s.cfg.tHold - 1, by omega⟩
  have e : (s.passTicks s.cfg.tHold).responded b r acc =
      State.passTick { s.lastOf .hold b r acc with
        phase := .idle
        rdata := if s.isread then readResult s.org acc else s.rdata
        errcode := 0
        rspv := true } := by
    simp only [State.lastOf, State.put, State.responded, State.passTick, State.passTicks, Phase.duration, hd,
      Nat.add_sub_cancel, List.tail_drop, Nat.add_assoc]
  exact e ▸ h

/-! ### The window -/

/-- The lines over the frame bits `sr[b-1] … sr[0]` (R136). -/
def bitPins (tHalf : Nat) (sr : FrameWord) : Nat → List Pins
  | 0 => []
  | b + 1 =>
    List.replicate tHalf ⟨true, true, false, sr.getLsbD b⟩ ++ List.replicate tHalf ⟨true, true, true, sr.getLsbD b⟩
      ++ bitPins tHalf sr b

/-- The lines over `r` cycles with DOUT low (R180). -/
def cyclePins (tHalf : Nat) : Nat → List Pins
  | 0 => []
  | r + 1 =>
    List.replicate tHalf ⟨true, true, false, false⟩ ++ List.replicate tHalf ⟨true, true, true, false⟩ ++ cyclePins tHalf r

/-- The accumulator after `r` samples, `2 * T_HALF` ticks apart, the first `t` ticks from now (R183). -/
def State.accFrom (s : State) (t : Nat) (acc : DataWord) : Nat → DataWord
  | 0 => acc
  | r + 1 => s.accFrom (t + 2 * s.cfg.tHalf) (shiftIn acc (s.dinAt t)) r

theorem State.accFrom_passTicks (s : State) (k t : Nat) (acc : DataWord) (r : Nat) :
    (s.passTicks k).accFrom t acc r = s.accFrom (k + t) acc r := by
  induction r generalizing t acc with
  | zero => rfl
  | succ r ih =>
    rw [State.accFrom, State.accFrom, State.dinAt_of_passed (s := s) (n := k) rfl rfl, ih]
    rw [show (s.passTicks k).cfg.tHalf = s.cfg.tHalf from rfl, Nat.add_assoc]

theorem State.QuietFor.passTicks {k n : Nat} (h : s.QuietFor (k + n)) : (s.passTicks k).QuietFor n :=
  h.after rfl rfl

/-- The frame bits (R136). -/
theorem Runs.bits (hl : s.cfg.legal = true) (hb' : b ≤ 32) (hq : s.QuietFor (2 * b * s.cfg.tHalf)) (hb : 1 ≤ b) :
    Runs (s.put .txl b r acc) (2 * b * s.cfg.tHalf) ((s.passTicks (2 * b * s.cfg.tHalf)).put s.afterBits 0 r acc)
      (bitPins s.cfg.tHalf s.sr b) := by
  induction b generalizing s with
  | zero => omega
  | succ b ih =>
    have hn : 2 * (b + 1) * s.cfg.tHalf = s.cfg.tHalf + (s.cfg.tHalf + 2 * b * s.cfg.tHalf) := by ring
    rw [hn] at hq ⊢
    have h1 := Runs.txl (r := r) (acc := acc) hl hb hb' (hq.mono (by omega))
    have q1 : (s.passTicks s.cfg.tHalf).QuietFor (s.cfg.tHalf + 2 * b * s.cfg.tHalf) := hq.passTicks
    have h2 := Runs.txh (s := s.passTicks s.cfg.tHalf) (r := r) (acc := acc) hl hb hb' (q1.mono (by simp))
    have h12 := h1.trans (SameWindow.put _ _) h2
    rw [State.passTicks_passTicks] at h12
    simp only [Nat.add_sub_cancel] at h12
    rcases Nat.eq_zero_or_pos b with hz | hpos
    · subst hz
      simpa [bitPins, State.passTicks_passTicks] using h12
    · rw [if_neg (by omega)] at h12
      have q2 : ((s.passTicks s.cfg.tHalf).passTicks s.cfg.tHalf).QuietFor (2 * b * s.cfg.tHalf) := by
        exact q1.passTicks
      rw [State.passTicks_passTicks] at q2
      have h3 := ih (s := s.passTicks (s.cfg.tHalf + s.cfg.tHalf)) hl (by omega) q2 hpos
      have h123 := h12.trans (SameWindow.put _ _) h3
      rw [State.passTicks_passTicks] at h123
      simpa [bitPins, Nat.add_assoc] using h123

/-- The data cycles (R183, R184). -/
theorem Runs.cycles (hl : s.cfg.legal = true) (hr' : r ≤ 16) (hq : s.QuietFor (2 * r * s.cfg.tHalf)) (hr : 1 ≤ r) :
    Runs (s.put .rxl b r acc) (2 * r * s.cfg.tHalf) ((s.passTicks (2 * r * s.cfg.tHalf)).put .hold b 0 (s.accFrom 0 acc r))
      (cyclePins s.cfg.tHalf r) := by
  induction r generalizing s acc with
  | zero => omega
  | succ r ih =>
    have hn : 2 * (r + 1) * s.cfg.tHalf = s.cfg.tHalf + (s.cfg.tHalf + 2 * r * s.cfg.tHalf) := by ring
    rw [hn] at hq ⊢
    have h1 := Runs.rxl (b := b) (r := r + 1) (acc := acc) hl (hq.mono (by omega))
    have q1 : (s.passTicks s.cfg.tHalf).QuietFor (s.cfg.tHalf + 2 * r * s.cfg.tHalf) := hq.passTicks
    have h2 := Runs.rxh (s := s.passTicks s.cfg.tHalf) (b := b) (acc := shiftIn acc (s.dinAt 0)) hl hr hr' (q1.mono (by simp))
    have h12 := h1.trans (SameWindow.put _ _) h2
    rw [State.passTicks_passTicks] at h12
    simp only [Nat.add_sub_cancel] at h12
    rcases Nat.eq_zero_or_pos r with hz | hpos
    · subst hz
      simpa [cyclePins, State.passTicks_passTicks, State.accFrom] using h12
    · rw [if_neg (by omega)] at h12
      have q2 : ((s.passTicks s.cfg.tHalf).passTicks s.cfg.tHalf).QuietFor (2 * r * s.cfg.tHalf) := q1.passTicks
      rw [State.passTicks_passTicks] at q2
      have h3 := ih (s := s.passTicks (s.cfg.tHalf + s.cfg.tHalf)) (acc := shiftIn acc (s.dinAt 0)) hl (by omega) q2 hpos
      have h123 := h12.trans (SameWindow.put _ _) h3
      rw [State.passTicks_passTicks, State.accFrom_passTicks] at h123
      have e : s.cfg.tHalf + s.cfg.tHalf + 0 = 0 + 2 * s.cfg.tHalf := by omega
      rw [e] at h123
      simpa [cyclePins, State.accFrom, Nat.add_assoc] using h123

/-- What follows the frame bits: for a Read the dummy cycle and the data cycles, and HOLD for every command (R153, R182
to R185). -/
theorem Runs.tail (hl : s.cfg.legal = true) (hr : s.isread = true → 1 ≤ r ∧ r ≤ 16)
    (hq : s.QuietFor (2 * (if s.isread then 1 + r else 0) * s.cfg.tHalf + s.cfg.tHold)) :
    Runs (s.put s.afterBits b r acc) (2 * (if s.isread then 1 + r else 0) * s.cfg.tHalf + s.cfg.tHold)
      ((s.passTicks (2 * (if s.isread then 1 + r else 0) * s.cfg.tHalf + s.cfg.tHold)).responded b (if s.isread then 0 else r)
        (if s.isread then s.accFrom (2 * s.cfg.tHalf) acc r else acc))
      (cyclePins s.cfg.tHalf (if s.isread then 1 + r else 0) ++ List.replicate s.cfg.tHold ⟨true, true, false, false⟩) := by
  cases hi : s.isread
  · simp only [hi, Bool.false_eq_true, if_false] at hq ⊢
    simpa [State.afterBits, hi, cyclePins] using
      Runs.hold (b := b) (r := r) (acc := acc) hl (hq.mono (by omega))
  · simp only [hi, if_true] at hq ⊢
    have hr := hr hi
    have hn : 2 * (1 + r) * s.cfg.tHalf + s.cfg.tHold =
        s.cfg.tHalf + s.cfg.tHalf + 2 * r * s.cfg.tHalf + s.cfg.tHold := by ring
    rw [hn] at hq ⊢
    have h1 := Runs.dml (b := b) (r := r) (acc := acc) hl (hq.mono (by omega))
    have h2 := Runs.dmh (s := s.passTicks s.cfg.tHalf) (b := b) (r := r) (acc := acc) hl
      (State.QuietFor.passTicks (hq.mono (by simp; omega)))
    have h12 := h1.trans (SameWindow.put _ _) h2
    rw [State.passTicks_passTicks] at h12
    have h3 := Runs.cycles (s := s.passTicks (s.cfg.tHalf + s.cfg.tHalf)) (b := b) (acc := acc) hl hr.2
      (State.QuietFor.passTicks (hq.mono (by simp))) hr.1
    have h123 := h12.trans (SameWindow.put _ _) h3
    rw [State.passTicks_passTicks] at h123
    have h4 := Runs.hold (s := s.passTicks (s.cfg.tHalf + s.cfg.tHalf + 2 * r * s.cfg.tHalf)) (b := b) (r := 0)
      (acc := s.accFrom (2 * s.cfg.tHalf) acc r) hl (State.QuietFor.passTicks (hq.mono (by simp)))
    rw [State.accFrom_passTicks, show s.cfg.tHalf + s.cfg.tHalf + 0 = 2 * s.cfg.tHalf by omega] at h123
    have h := h123.trans (SameWindow.put _ _) h4
    rw [State.passTicks_passTicks] at h
    have ha : s.afterBits = .dml := by simp [State.afterBits, hi]
    have hc : cyclePins s.cfg.tHalf (1 + r) =
        List.replicate s.cfg.tHalf ⟨true, true, false, false⟩ ++ List.replicate s.cfg.tHalf ⟨true, true, true, false⟩
          ++ cyclePins s.cfg.tHalf r := by rw [Nat.add_comm, cyclePins]
    rw [ha, hc]
    exact h

/-- The lines over a command's window (R155, R157). -/
def windowPins (p : Params) (sr : FrameWord) (bits cycles : Nat) : List Pins :=
  List.replicate p.tSetup ⟨true, true, false, false⟩ ++ (bitPins p.tHalf sr bits ++
    (cyclePins p.tHalf cycles ++ List.replicate p.tHold ⟨true, true, false, false⟩))

/-- The whole window, from the first tick of SETUP to the response, for any frame of `b` bits, 0 to 32 (R152, D27). -/
theorem Runs.window (hl : s.cfg.legal = true) (hb : b ≤ 32) (hr : s.isread = true → 1 ≤ r ∧ r ≤ 16)
    (hq : s.QuietFor (s.cfg.tSetup + 2 * (b + (if s.isread then 1 + r else 0)) * s.cfg.tHalf + s.cfg.tHold)) :
    Runs (s.put .setup b r acc) (s.cfg.tSetup + 2 * (b + (if s.isread then 1 + r else 0)) * s.cfg.tHalf + s.cfg.tHold)
      ((s.passTicks (s.cfg.tSetup + 2 * (b + (if s.isread then 1 + r else 0)) * s.cfg.tHalf + s.cfg.tHold)).responded 0 (if s.isread then 0 else r)
        (if s.isread then s.accFrom (s.cfg.tSetup + 2 * (b + 1) * s.cfg.tHalf) acc r else acc))
      (windowPins s.cfg s.sr b (if s.isread then 1 + r else 0)) := by
  have hn : s.cfg.tSetup + 2 * (b + (if s.isread then 1 + r else 0)) * s.cfg.tHalf + s.cfg.tHold =
      s.cfg.tSetup + (2 * b * s.cfg.tHalf + (2 * (if s.isread then 1 + r else 0) * s.cfg.tHalf + s.cfg.tHold)) := by ring
  rw [hn] at hq ⊢
  have h1 := Runs.setup (r := r) (acc := acc) hl hb (hq.mono (by omega))
  have q2 := hq.passTicks
  have h2 : Runs ((s.passTicks s.cfg.tSetup).put (if b = 0 then s.afterBits else .txl) b r acc) (2 * b * s.cfg.tHalf)
      ((s.passTicks (s.cfg.tSetup + 2 * b * s.cfg.tHalf)).put s.afterBits 0 r acc) (bitPins s.cfg.tHalf s.sr b) := by
    rcases Nat.eq_zero_or_pos b with rfl | hpos
    · simp only [Nat.mul_zero, Nat.zero_mul, Nat.add_zero, if_true]
      exact
        { run := rfl
          host := rfl
          din := rfl
          tick := rfl
          pins := rfl
          inside := fun j hj => absurd hj (Nat.not_lt_zero j) }
    · rw [if_neg (by omega)]
      have h := Runs.bits (s := s.passTicks s.cfg.tSetup) (r := r) (acc := acc) hl hb (q2.mono (by simp)) hpos
      rw [State.passTicks_passTicks] at h
      exact h
  have h12 := h1.trans (SameWindow.put _ _) h2
  have h3 := Runs.tail (s := s.passTicks (s.cfg.tSetup + 2 * b * s.cfg.tHalf)) (b := 0) (acc := acc) hl hr
    (State.QuietFor.passTicks (s := s) (n := 2 * (if s.isread then 1 + r else 0) * s.cfg.tHalf + s.cfg.tHold)
      (hq.mono (by rw [← Nat.add_assoc, ← Nat.add_assoc, ← Nat.add_assoc])))
  have h := h12.trans (SameWindow.put _ _) h3
  rw [State.passTicks_passTicks, State.accFrom_passTicks,
    show s.cfg.tSetup + 2 * b * s.cfg.tHalf + 2 * (s.passTicks (s.cfg.tSetup + 2 * b * s.cfg.tHalf)).cfg.tHalf =
      s.cfg.tSetup + 2 * (b + 1) * s.cfg.tHalf by
        rw [show (s.passTicks (s.cfg.tSetup + 2 * b * s.cfg.tHalf)).cfg.tHalf = s.cfg.tHalf from rfl]; ring,
    List.append_assoc] at h
  simp only [Nat.add_assoc] at h ⊢
  exact h

end Sys2Proof.Machine
end

