-- ==== Sys2Proof/Tests/Slice0.lean ====
section
/-! SUPPORT. Tests, and a witness for the hypotheses of every obligation. Expected values come from the spec's tables and
vectors (30_encoding.md R76 and R77, 95_test_vectors.md); each test names its source. -/

namespace Sys2Proof.Tests

open Sys2Proof.Machine

/-! ### Helpers -/

/-- The next state, where there is one. -/
def after : Host.Outcome State Fault Refusal → Option State
  | .next s => some s
  | .fault _ => none
  | .refused _ => none

/-- A step that answers a state answers it as a next state. -/
theorem next_of_after {o : Host.Outcome State Fault Refusal} {t : State} (h : after o = some t) : o = .next t := by
  cases o <;> simp_all [after]

/-- The frame, or the cause's code, the encoder answers. -/
def answer : Except Cause Frame → Nat × Nat
  | .ok f => (f.value.toNat, f.bits)
  | .error c => (c.code.toNat, 0)

/-- The instruction a decoder reads. -/
def read : Except DecodeError Instr → Option Instr
  | .ok i => some i
  | .error _ => none

/-- The shortest configuration. -/
def fast : Params := { Config.default with tHalf := 1, tSetup := 1, tHold := 1 }

/-- A CORE fresh from reset with a quiet host for `n` ticks and DIN at the levels given. -/
def quiet (p : Params) (o : Org) (n : Nat) (din : List Level) : State :=
  State.resetWith p o (List.replicate n (quietInput o)) din 0

theorem quiet_noReset (p : Params) (o : Org) (n k : Nat) (din : List Level) (h : k < n) : (quiet p o n din).noResetFor k := by
  intro j hj
  have : (List.replicate n (quietInput o))[j]? = some (quietInput o) := by
    rw [List.getElem?_replicate, if_pos (by omega)]
  show (((List.replicate n (quietInput o))[j]?).getD (Config.freeHost (0 + j))).rst = false
  rw [this]
  rfl

/-- A command in progress: the registers of a phase, with a quiet host. -/
def busyIn (ph : Phase) (timer : BitVec 16) (bits : BitVec 6) (rd : Bool) (samples : BitVec 5) : State :=
  { quiet Config.default .sixteen 10 [true, false] with
    phase := ph, timer := timer, sr := if rd then 0x185 else 0x130, bitcnt := bits, isread := rd, rxcnt := samples }

/-- A transfer on the port of a ready CORE. -/
def presenting (o : Org) (op : BitVec 3) (a d : Operand) : State :=
  State.resetWith Config.default o [{ quietInput o with cmdValid := true, cmdOp := op, cmdAddr := a, cmdData := d },
    quietInput o] [] 0

/-- What a test compares of the state after a command's tick. -/
def seen (o : Host.Outcome State Fault Refusal) : Option (Nat × Nat × Phase × Nat × Nat × Bool) :=
  (after o).map fun t => (t.sr.toNat, t.bitcnt.toNat, t.phase, t.rxcnt.toNat, t.errcode.toNat, t.rspv)

/-! ### Well-formedness: one ill-formed term for each check (R102, R103) -/

theorem test_illformed_addr_x16 : Instr.wellFormed (.readX16 64) = false := by decide
theorem test_illformed_addr_x16_erase : Instr.wellFormed (.eraseX16 64) = false := by decide
theorem test_illformed_addr_x16_write : Instr.wellFormed (.writeX16 64 0) = false := by decide
theorem test_illformed_data_x16_write : Instr.wellFormed (.writeX16 0 0x10000) = false := by decide
theorem test_illformed_data_x16 : Instr.wellFormed (.writeAllX16 0x10000) = false := by decide
theorem test_illformed_addr_x8 : Instr.wellFormed (.readX8 128) = false := by decide
theorem test_illformed_addr_x8_erase : Instr.wellFormed (.eraseX8 128) = false := by decide
theorem test_illformed_addr_x8_write : Instr.wellFormed (.writeX8 128 0) = false := by decide
theorem test_illformed_data_x8_write : Instr.wellFormed (.writeX8 0 0x100) = false := by decide
theorem test_illformed_data_x8 : Instr.wellFormed (.writeAllX8 0x100) = false := by decide
theorem test_wellformed_edges : (Instr.writeX16 63 0xFFFF).wellFormed = true ∧ (Instr.writeX8 127 0xFF).wellFormed = true := by
  decide

/-! ### Decoding: words written out from the patterns of R77, and what is refused (R76, R78, R80, R83) -/

/-- R77 x16 WriteDisable `10000XXXX`. -/
theorem test_decode_writeDisableX16 : decodeTableWord 16 0b100000000 = some .writeDisableX16 := by decide
/-- R77 x16 WriteAll `10001XXXXDDDDDDDDDDDDDDDD`; 95 §2.1. -/
theorem test_decode_writeAllX16 : decodeTableWord 32 0b1000100000000000010100101 = some (.writeAllX16 0xA5) := by decide
/-- R77 x16 EraseAll `10010XXXX`. -/
theorem test_decode_eraseAllX16 : decodeTableWord 16 0b100100000 = some .eraseAllX16 := by decide
/-- R77 x16 WriteEnable `10011XXXX`, don't-care bits set; 95 §3. -/
theorem test_decode_writeEnableX16 : decodeTableWord 16 0b100111111 = some .writeEnableX16 := by decide
/-- R77 x16 Write `101AAAAAADDDDDDDDDDDDDDDD`; 95 E1. -/
theorem test_decode_writeX16 : decodeTableWord 32 0b1010001011011111011101111 = some (.writeX16 0x05 0xBEEF) := by decide
/-- R77 x16 Read `110AAAAAA`; 95 §3. -/
theorem test_decode_readX16 : decodeTableWord 16 0b110111111 = some (.readX16 0x3F) := by decide
/-- R77 x16 Erase `111AAAAAA`; 95 §2.1. -/
theorem test_decode_eraseX16 : decodeTableWord 16 0b111000101 = some (.eraseX16 0x05) := by decide
/-- R77 x8 WriteDisable `10000XXXXX`. -/
theorem test_decode_writeDisableX8 : decodeTableWord 16 0b1000000000 = some .writeDisableX8 := by decide
/-- R77 x8 WriteAll `10001XXXXXDDDDDDDD`; 95 §3. -/
theorem test_decode_writeAllX8 : decodeTableWord 24 0b100010000011111111 = some (.writeAllX8 0xFF) := by decide
/-- R77 x8 EraseAll `10010XXXXX`, don't-care bits set; 95 §3. -/
theorem test_decode_eraseAllX8 : decodeTableWord 16 0b1001011111 = some .eraseAllX8 := by decide
/-- R77 x8 WriteEnable `10011XXXXX`. -/
theorem test_decode_writeEnableX8 : decodeTableWord 16 0b1001100000 = some .writeEnableX8 := by decide
/-- R77 x8 Write `101AAAAAAADDDDDDDD`; 95 E4. -/
theorem test_decode_writeX8 : decodeTableWord 24 0b101101010110101010 = some (.writeX8 0x55 0xAA) := by decide
/-- R77 x8 Read `110AAAAAAA`; 95 T3. -/
theorem test_decode_readX8 : decodeTableWord 16 0b1100101010 = some (.readX8 0x2A) := by decide
/-- R77 x8 Erase `111AAAAAAA`; 95 §3. -/
theorem test_decode_eraseX8 : decodeTableWord 16 0b1111111111 = some (.eraseX8 0x7F) := by decide

/-- A frame with S = 0, a frame wider than its bit-count, a bit-count of the other organization, and an 18-bit frame
without data are refused by name. -/
theorem test_decode_refusals :
    decodeFrame Config.defaultOpcodes .sixteen 9 0x0FF = .error .noSuchRow ∧
    decodeFrame Config.defaultOpcodes .sixteen 9 0x200 = .error .tooWide ∧
    decodeFrame Config.defaultOpcodes .sixteen 10 0x3FF = .error .wrongLength ∧
    decodeFrame Config.defaultOpcodes .eight 18 0x30000 = .error .noSuchRow ∧
    decodePort .eight 7 0 0 = .error .reservedCode ∧ decodeTableWord 16 0x0FF = none := by
  refine ⟨?_, ?_, ?_, ?_, ?_, ?_⟩ <;> rfl

/-- 95 E1: the wire string of x16 Write 0x05, 0xBEEF. -/
theorem test_wire_writeX16 :
    (encodeInstr Config.defaultOpcodes (.writeX16 0x05 0xBEEF)).wire.map Bool.toNat =
      [1, 0, 1, 0, 0, 0, 1, 0, 1, 1, 0, 1, 1, 1, 1, 1, 0, 1, 1, 1, 0, 1, 1, 1, 1] := by decide

/-! ### Encoder vectors (95 §2) -/

/-- 95 §2.1, x16. -/
theorem test_encode_x16 :
    ([0, 1, 2, 3, 4, 5, 6, 7] : List (BitVec 3)).map (fun op => answer (encode Config.defaultOpcodes .sixteen op 0x5 0xA5)) =
      [(0x100, 9), (0x11000A5, 25), (0x120, 9), (0x130, 9), (0x14500A5, 25), (0x185, 9), (0x1C5, 9), (3, 0)] := by decide
/-- 95 §2.1, x8. -/
theorem test_encode_x8 :
    ([0, 1, 2, 3, 4, 5, 6, 7] : List (BitVec 3)).map (fun op => answer (encode Config.defaultOpcodes .eight op 0x5 0xA5)) =
      [(0x200, 10), (0x220A5, 18), (0x240, 10), (0x260, 10), (0x285A5, 18), (0x305, 10), (0x385, 10), (3, 0)] := by decide
/-- 95 §2.2: the rejected x16 Writes, ADDRESS before DATA. -/
theorem test_encode_priority :
    answer (encode Config.defaultOpcodes .sixteen 4 0x40 0x0) = (1, 0) ∧
    answer (encode Config.defaultOpcodes .sixteen 4 0x0 0x10000) = (2, 0) ∧
    answer (encode Config.defaultOpcodes .sixteen 4 0x40 0x10000) = (1, 0) ∧
    answer (encode Config.defaultOpcodes .sixteen 7 0xFFFFFFFF 0xFFFFFFFF) = (3, 0) := by decide

/-! ### One tick of each instruction: acceptance, and rejection where the command has an operand (95 §2, R151, R212) -/

theorem test_exec_writeDisableX16 :
    seen (exec .writeDisableX16 (quiet Config.default .sixteen 2 [])) = some (0x100, 9, .setup, 0, 0, false) := by decide
theorem test_exec_writeAllX16 :
    seen (exec (.writeAllX16 0x1234) (quiet Config.default .sixteen 2 [])) = some (0x1101234, 25, .setup, 0, 0, false) := by decide
theorem test_reject_writeAllX16 :
    seen (exec (.writeAllX16 0x10000) (quiet Config.default .sixteen 2 [])) = some (0, 0, .idle, 0, 2, true) := by decide
theorem test_exec_eraseAllX16 :
    seen (exec .eraseAllX16 (quiet Config.default .sixteen 2 [])) = some (0x120, 9, .setup, 0, 0, false) := by decide
theorem test_exec_writeEnableX16 :
    seen (exec .writeEnableX16 (quiet Config.default .sixteen 2 [])) = some (0x130, 9, .setup, 0, 0, false) := by decide
theorem test_exec_writeX16 :
    seen (exec (.writeX16 0x2A 0xAAAA) (quiet Config.default .sixteen 2 [])) = some (0x16AAAAA, 25, .setup, 0, 0, false) := by
  decide
theorem test_reject_writeX16 :
    seen (exec (.writeX16 64 0) (quiet Config.default .sixteen 2 [])) = some (0, 0, .idle, 0, 1, true) := by decide
theorem test_exec_readX16 :
    seen (exec (.readX16 0x3F) (quiet Config.default .sixteen 2 [])) = some (0x1BF, 9, .setup, 16, 0, false) := by decide
theorem test_reject_readX16 :
    seen (exec (.readX16 0x7F) (quiet Config.default .sixteen 2 [])) = some (0, 0, .idle, 0, 1, true) := by decide
theorem test_exec_eraseX16 :
    seen (exec (.eraseX16 0x03) (quiet Config.default .sixteen 2 [])) = some (0x1C3, 9, .setup, 0, 0, false) := by decide
theorem test_reject_eraseX16 :
    seen (exec (.eraseX16 0x40) (quiet Config.default .sixteen 2 [])) = some (0, 0, .idle, 0, 1, true) := by decide
theorem test_exec_writeDisableX8 :
    seen (exec .writeDisableX8 (quiet Config.default .eight 2 [])) = some (0x200, 10, .setup, 0, 0, false) := by decide
theorem test_exec_writeAllX8 :
    seen (exec (.writeAllX8 0x5A) (quiet Config.default .eight 2 [])) = some (0x2205A, 18, .setup, 0, 0, false) := by decide
theorem test_reject_writeAllX8 :
    seen (exec (.writeAllX8 0x100) (quiet Config.default .eight 2 [])) = some (0, 0, .idle, 0, 2, true) := by decide
theorem test_exec_eraseAllX8 :
    seen (exec .eraseAllX8 (quiet Config.default .eight 2 [])) = some (0x240, 10, .setup, 0, 0, false) := by decide
theorem test_exec_writeEnableX8 :
    seen (exec .writeEnableX8 (quiet Config.default .eight 2 [])) = some (0x260, 10, .setup, 0, 0, false) := by decide
theorem test_exec_writeX8 :
    seen (exec (.writeX8 0x55 0xAA) (quiet Config.default .eight 2 [])) = some (0x2D5AA, 18, .setup, 0, 0, false) := by decide
theorem test_reject_writeX8 :
    seen (exec (.writeX8 0x00 0x100) (quiet Config.default .eight 2 [])) = some (0, 0, .idle, 0, 2, true) := by decide
theorem test_exec_readX8 :
    seen (exec (.readX8 0x40) (quiet Config.default .eight 2 [])) = some (0x340, 10, .setup, 8, 0, false) := by decide
theorem test_reject_readX8 :
    seen (exec (.readX8 0x80) (quiet Config.default .eight 2 [])) = some (0, 0, .idle, 0, 1, true) := by decide
theorem test_exec_eraseX8 :
    seen (exec (.eraseX8 0x7F) (quiet Config.default .eight 2 [])) = some (0x3FF, 10, .setup, 0, 0, false) := by decide
theorem test_reject_eraseX8 :
    seen (exec (.eraseX8 0x80) (quiet Config.default .eight 2 [])) = some (0, 0, .idle, 0, 1, true) := by decide

/-! ### Ticks (95 §5) -/

/-- The step runs the transfer on the port: x16 Write 0x05, 0xBEEF (W4, tick 0). -/
theorem test_step_accepts :
    seen (step (presenting .sixteen 4 0x05 0xBEEF)) = some (0x145BEEF, 25, .setup, 0, 0, false) := by decide
/-- The reserved code (P4, first line). -/
theorem test_step_reserved : seen (step (presenting .sixteen 7 0 0)) = some (0, 0, .idle, 0, 3, true) := by decide
/-- A fetched table word runs as the first instruction after reset. -/
theorem test_step_fetched :
    seen (step (State.reset.withFetchWord 32 0x145BEEF)) = some (0x145BEEF, 25, .setup, 0, 0, false) := by decide
/-- W1, tick 4: the first bit's low half, DOUT = 1; tick 6: the second bit's, DOUT = 0. -/
theorem test_pins_txl :
    (busyIn .txl 0 9 false 0).pins = ⟨true, true, false, true⟩ ∧ (busyIn .txl 0 8 false 0).pins = ⟨true, true, false, false⟩ := by
  decide
/-- R183: the sample enters RXACC at the right. -/
theorem test_sample :
    (after (step { busyIn .rxl 0 0 true 16 with rxacc := 0x8001 })).map (·.rxacc) = some 0x0003 := by decide
/-- R153 and S2: x8 keeps RXACC[7:0]. -/
theorem test_hold_x8 :
    (after (step { busyIn .hold 0 0 true 0 with org := .eight, rxacc := 0xABCD })).map (fun t => (t.rdata, t.rspv, t.phase)) =
      some (0x00CD, true, .idle) := by decide
/-- W8, tick 10: reset in TXL drives every line low and abandons the command. -/
theorem test_reset_mid_command :
    (let s := { busyIn .txl 0 22 false 0 with host := [resetInput .sixteen], rdata := 5 }
    s.pins = Pins.low ∧ seen (step s) = some (0, 0, .idle, 0, 0, false) ∧ (after (step s)).map (·.rdata) = some 0) := by decide
/-- A configuration outside R6 is refused. -/
theorem test_refusal :
    step { quiet Config.default .sixteen 2 [] with cfg := { Config.default with tHalf := 0 } } = .refused .illegalConfiguration :=
  rfl

/-- 95 T4 and T5: truncation and padding. -/
theorem test_transmit_edges :
    doutAtEdges false (waveform Pins.low (transmitTrace 1 0b1011 3)) = [false, true, true] ∧
    doutAtEdges false (waveform Pins.low (transmitTrace 1 0b1 4)) = [false, false, false, true] := by decide
/-- W7: the waveform of x16 Erase 0x3F with (1, 1, 1), tick 1 to 20. -/
theorem test_waveform_W7 :
    (waveform Pins.low (executeTrace fast ⟨0x1FF, 9⟩)).map (fun v => (v.cs.toNat, v.clk.toNat, v.dout.toNat)) =
      (1, 0, 0) :: (List.replicate 9 [(1, 0, 1), (1, 1, 1)]).flatten ++ [(1, 0, 0)] := by decide
/-- 95 §7, P1: the text of the three lines, the first with its comment. -/
theorem test_parse_P1 :
    parseScript [".org x16", "WriteEnable               ; cmd_op=3", "", "Write 0x05, 0xBEEF", "READ 5"] =
      .ok [.org .sixteen, .writeEnable, .write 0x05 0xBEEF, .read 0x05] := by rfl
/-- R81: an operand of 33 bits, and a command without its operand, are no lines. -/
theorem test_parse_errors :
    parseLine "Read 0x100000000" = .error "Read 0x100000000" ∧ parseLine "Write 5" = .error "Write 5" := ⟨rfl, rfl⟩
/-- 95 §7, P1: the ticks at which the three lines are accepted. -/
theorem test_script_P1 :
    ((scriptInputs Config.default .sixteen [.writeEnable, .write 0x05 0xBEEF, .read 0x05]).zipIdx.filter
      (fun x => x.1.cmdValid)).map (fun x => (x.2, x.1.cmdOp.toNat)) = [(0, 3), (25, 4), (82, 5)] := by decide

/-! ### Witnesses: a concrete input that meets the hypotheses of each obligation -/

theorem witness_WellFormedFramesRoundTrip :
    Config.defaultOpcodes.legal = true ∧ (Instr.writeX16 63 0xFFFF).wellFormed = true ∧ (Instr.writeX8 127 0xFF).wellFormed = true ∧
      (Instr.readX16 63).wellFormed = true ∧ Instr.eraseAllX8.wellFormed = true := by decide

theorem witness_WireStringsRoundTrip : Config.defaultOpcodes.legal = true ∧ (Instr.eraseX8 127).wellFormed = true := by decide

theorem witness_DecodedFramesReencode :
    decodeFrame Config.defaultOpcodes .sixteen 25 0x145BEEF = .ok (.writeX16 0x05 0xBEEF) ∧
      decodeFrame Config.defaultOpcodes .sixteen 9 0x13F = .ok .writeEnableX16 ∧
      decodeFrame Config.defaultOpcodes .eight 18 0x23FFF = .ok (.writeAllX8 0xFF) := by
  refine ⟨?_, ?_, ?_⟩ <;> rfl

theorem witness_CommandCodesAndReservedCode :
    (presenting .sixteen 7 0 0).cfg.legal = true ∧ (presenting .sixteen 7 0 0).accepts = true ∧
      ((presenting .sixteen 7 0 0).hostAt 0).cmdOp = 7 := by decide

/-- The boundary operands of each clause. -/
theorem witness_OperandValidation :
    (63 : Nat) < (64 : Operand).toNat ∧ (127 : Nat) < (128 : Operand).toNat ∧ (63 : Operand).toNat ≤ 63 ∧
      (127 : Operand).toNat ≤ 127 ∧ (0xFFFF : Nat) < (0x10000 : Operand).toNat ∧ (0xFF : Nat) < (0x100 : Operand).toNat := by
  decide

theorem witness_EncodeOperands :
    (0xFFFF : Operand).toNat < 2 ^ 16 ∧ 2 ^ 16 ≤ (0x10000 : Operand).toNat ∧ (0xFF : Operand).toNat < 2 ^ 8 ∧
      2 ^ 8 ≤ (0x100 : Operand).toNat ∧ (63 : Operand).toNat < 2 ^ 6 ∧ 2 ^ 6 ≤ (64 : Operand).toNat ∧
      (127 : Operand).toNat < 2 ^ 7 ∧ 2 ^ 7 ≤ (128 : Operand).toNat := by decide

/-- For FramesAreConcatenations, EncoderProperties and FrameLengthFromFirstFiveBits, in each shape of frame. -/
theorem witness_EncoderProperties :
    Config.defaultOpcodes.legal = true ∧
      encode Config.defaultOpcodes .sixteen Command.write.code 63 0xFFFF = .ok ⟨0x17FFFFF, 25⟩ ∧
      encode Config.defaultOpcodes .eight Command.read.code 127 0 = .ok ⟨0x37F, 10⟩ ∧
      encode Config.defaultOpcodes .eight Command.writeAll.code 0 0xFF = .ok ⟨0x220FF, 18⟩ ∧
      encode Config.defaultOpcodes .sixteen Command.eraseAll.code 0 0 = .ok ⟨0x120, 9⟩ := by
  refine ⟨by decide, ?_, ?_, ?_, ?_⟩ <;> rfl

theorem witness_EveryLegalTickGoesOn :
    State.reset.cfg.legal = true ∧ ({ State.reset with cfg := { Config.default with tHold := 65536 } } : State).cfg.legal = false := by
  decide

theorem witness_StepRunsThePresentedInstruction :
    (let s := presenting .eight 6 127 5
    s.cfg.legal = true ∧ s.phase = .idle ∧ (s.hostAt 0).rst = false ∧ (s.hostAt 0).cmdValid = true ∧ s.org = .eight) ∧
      read (decodePort .eight 6 127 5) = some (.eraseX8 127) ∧
      ({ quiet Config.default .eight 0 [] with host := [(Instr.eraseX8 127).transfer] } : State).hostAt 0 =
        (Instr.eraseX8 127).transfer ∧
      decodeTableWord 16 0x3FF = some (.eraseX8 127) := by decide

theorem witness_StepWithoutAcceptance :
    (busyIn .dml 0 0 true 16).cfg.legal = true ∧ ((busyIn .dml 0 0 true 16).hostAt 0).rst = false ∧
      (busyIn .dml 0 0 true 16).phase ≠ .idle ∧ ((quiet fast .eight 1 []).hostAt 0).cmdValid = false := by decide

/-- For OutputTable and the tick statements: every phase, at both ends of the frame. -/
theorem witness_OutputTable :
    ∀ s ∈ [busyIn .setup 2 9 true 16, busyIn .txl 0 1 true 16, busyIn .txh 0 9 false 0, busyIn .dml 0 0 true 16,
        busyIn .dmh 0 0 true 16, busyIn .rxl 0 0 true 1, busyIn .rxh 0 0 true 16, busyIn .hold 2 0 true 0],
      s.cfg.legal = true ∧ (s.hostAt 0).rst = false := by decide

theorem witness_OutputTable_reset : (({ State.reset with host := [resetInput .eight] } : State).hostAt 0).rst = true := by decide

/-- For OrganizationIsLatchedByReset: a step with reset and one without. -/
theorem witness_OrganizationIsLatchedByReset :
    (after (step { busyIn .hold 1 0 false 0 with host := [resetInput .eight] })).map (·.org) = some .eight ∧
      (after (step (busyIn .hold 1 0 false 0))).map (·.org) = some .sixteen := by decide

/-- For TimerCountsDown: each clause has a step that meets its hypotheses. -/
theorem witness_TimerCountsDown :
    (after (step (busyIn .hold 2 0 false 0))).map (fun t => (t.phase, t.timer.toNat)) = some (.hold, 1) ∧
      (after (step (busyIn .setup 0 9 false 0))).map (fun t => (t.phase, t.timer.toNat)) = some (.txl, 0) ∧
      (after (step (quiet fast .eight 1 []))).map (fun t => (t.phase, t.timer.toNat)) = some (.idle, 0) := by decide

theorem witness_PhasesLastTheirDuration :
    (busyIn .setup 2 9 true 16).cfg.legal = true ∧ (busyIn .setup 2 9 true 16).phase ≠ .idle ∧
      (busyIn .setup 2 9 true 16).timer.toNat = Phase.duration .setup Config.default - 1 ∧
      (busyIn .setup 2 9 true 16).noResetFor (Phase.duration .setup Config.default) :=
  ⟨by decide, by decide, by decide, fun j hj => quiet_noReset Config.default .sixteen 10 3 [] (by decide) j hj⟩

/-- For IdleTick: a quiet tick, a rejected command and an accepted one. -/
theorem witness_IdleTick :
    (presenting .sixteen 5 63 0).cfg.legal = true ∧ (presenting .sixteen 5 63 0).phase = .idle ∧
      ((presenting .sixteen 5 63 0).hostAt 0).rst = false ∧ ((presenting .sixteen 5 63 0).hostAt 0).cmdValid = true ∧
      ((quiet fast .eight 1 []).hostAt 0).cmdValid = false ∧
      answer (encode Config.defaultOpcodes .sixteen 5 63 0) = (0x1BF, 9) ∧
      answer (encode Config.defaultOpcodes .sixteen 5 64 0) = (1, 0) := by decide

/-- For SetupTick: the three ends of SETUP, and a counting tick. -/
theorem witness_SetupTick :
    (busyIn .setup 0 9 false 0).timer = 0 ∧ (busyIn .setup 0 9 false 0).bitcnt ≠ 0 ∧ (busyIn .setup 0 0 true 16).bitcnt = 0 ∧
      (busyIn .setup 0 0 true 16).isread = true ∧ (busyIn .setup 0 0 false 0).isread = false ∧
      0 < (busyIn .setup 2 9 false 0).timer := by decide

theorem witness_SetupTick_command : (busyIn .setup 2 9 true 16).HoldsCommand :=
  ⟨.read, 5, 0, ⟨0x185, 9⟩, rfl, rfl, rfl, rfl, rfl⟩

/-- For TxlTick: TXL is entered from SETUP and from TXH. -/
theorem witness_TxlTick :
    (after (step (busyIn .setup 0 9 false 0))).map (·.phase) = some .txl ∧
      (after (step (busyIn .txh 0 2 false 0))).map (fun t => (t.phase, t.bitcnt.toNat)) = some (.txl, 1) ∧
      1 ≤ (busyIn .txl 0 1 true 16).bitcnt.toNat ∧ (busyIn .txl 0 32 true 16).bitcnt.toNat ≤ 32 := by decide

theorem witness_TxhTick :
    (busyIn .txh 0 1 true 16).bitcnt.toNat = 1 ∧ 2 ≤ (busyIn .txh 0 2 false 0).bitcnt.toNat ∧
      (busyIn .txh 0 32 false 0).bitcnt.toNat ≤ 32 ∧ (busyIn .txh 0 1 false 0).isread = false ∧
      0 < (busyIn .txh 1 1 false 0).timer := by decide

/-- For RxlTick and RxhTick: a sampling tick, a later tick of the phase, and both ends of RXCNT. -/
theorem witness_RxlTick :
    (busyIn .rxl 0 0 true 16).timer.toNat = Config.default.tHalf - 1 ∧ (busyIn .rxl 1 0 true 16).timer.toNat ≠ Config.default.tHalf - 1 ∧
      (busyIn .rxh 0 0 true 1).rxcnt.toNat = 1 ∧ 2 ≤ (busyIn .rxh 0 0 true 2).rxcnt.toNat := by decide

theorem witness_HoldTick :
    (busyIn .hold 0 0 true 0).timer = 0 ∧ 0 < (busyIn .hold 2 0 true 0).timer ∧
      (busyIn .hold 2 0 true 0).timer.toNat = Config.default.tHold - 1 ∧ (busyIn .hold 2 0 true 0).noResetFor Config.default.tHold :=
  ⟨by decide, by decide, by decide, fun j hj => quiet_noReset Config.default .sixteen 10 3 [] (by decide) j hj⟩

theorem witness_ResetTick :
    ({ busyIn .txl 0 9 false 0 with host := [resetInput .eight, quietInput .eight] } : State).cfg.legal = true ∧
      (({ busyIn .txl 0 9 false 0 with host := [resetInput .eight, quietInput .eight] } : State).hostAt 0).rst = true := by decide

/-- For ReadyAfterReset: the tick after a reset, with a command presented in it. -/
theorem witness_ReadyAfterReset :
    (after (step { busyIn .txl 0 9 false 0 with host := [resetInput .eight, Instr.eraseAllX8.transfer] })).map
      (fun t => ((t.hostAt 0).rst, (t.hostAt 0).cmdValid)) = some (false, true) := by decide

/-- For the acceptance statements: a ready CORE of each organization. -/
theorem witness_acceptance :
    ∀ o ∈ [Org.eight, Org.sixteen], (quiet fast o 1 []).cfg.legal = true ∧ (quiet fast o 1 []).cmdReady = true ∧
      (quiet fast o 1 []).org = o := by decide

theorem witness_BusyCoreTakesNoCommand :
    (busyIn .rxl 0 0 true 16).cfg.legal = true ∧ (busyIn .rxl 0 0 true 16).phase ≠ .idle ∧
      ((busyIn .rxl 0 0 true 16).hostAt 0).rst = false := by decide

/-- For RejectionHasNoBusActivity: one transfer for each cause. -/
theorem witness_RejectionHasNoBusActivity :
    (∀ s ∈ [presenting .sixteen 6 64 0, presenting .eight 1 0 0x100, presenting .eight 7 0 0],
      s.cfg.legal = true ∧ s.accepts = true ∧ (s.hostAt 1).rst = false) ∧
      answer (encode Config.defaultOpcodes .sixteen 6 64 0) = (1, 0) ∧ answer (encode Config.defaultOpcodes .eight 1 0 0x100) = (2, 0) ∧
      answer (encode Config.defaultOpcodes .eight 7 0 0) = (3, 0) := by decide

/-- For the statements from acceptance to response: every instruction, well-formed, at a ready CORE of its organization that
is not reset within its window. -/
theorem witness_commands :
    ∀ i ∈ [Instr.writeDisableX16, .writeAllX16 0xFFFF, .eraseAllX16, .writeEnableX16, .writeX16 63 0xFFFF, .readX16 63,
        .eraseX16 63, .writeDisableX8, .writeAllX8 0xFF, .eraseAllX8, .writeEnableX8, .writeX8 127 0xFF, .readX8 127,
        .eraseX8 127],
      (quiet fast i.org 60 []).cfg.legal = true ∧ (quiet fast i.org 60 []).cmdReady = true ∧
        (quiet fast i.org 60 []).org = i.org ∧ i.wellFormed = true ∧
        csHighTicks (quiet fast i.org 60 []).cfg (quiet fast i.org 60 []).org i.command + 1 < 60 := by decide

theorem witness_commands_noReset (i : Instr) (k : Nat) (h : k < 60) : (quiet fast i.org 60 []).noResetFor k :=
  quiet_noReset fast i.org 60 k [] h

theorem witness_SequencerShowsAnyFrame :
    (let s := { quiet fast .sixteen 70 [] with phase := .setup, timer := 0, sr := 0x80000000, bitcnt := 32 }
    s.cfg.legal = true ∧ s.phase = .setup ∧ s.timer.toNat = s.cfg.tSetup - 1 ∧ s.bitcnt.toNat ≤ 32 ∧ s.isread = false ∧
      s.cfg.tSetup + 2 * s.bitcnt.toNat * s.cfg.tHalf + s.cfg.tHold < 70) := by decide

theorem witness_SequencerShowsAnyFrame_noReset (k : Nat) (h : k < 70) :
    ({ quiet fast .sixteen 70 [] with phase := .setup, timer := 0, sr := 0x80000000, bitcnt := 32 } : State).noResetFor k :=
  fun j hj => quiet_noReset fast .sixteen 70 k [] h j hj

theorem witness_TransmitterSendsMsbFirst : 1 ≤ fast.tHalf := by decide

/-- For DurationTable: each clause's commands. -/
theorem witness_DurationTable :
    ∀ c ∈ Command.all, (c = .writeDisable ∨ c = .eraseAll ∨ c = .writeEnable ∨ c = .erase) ∨ (c = .write ∨ c = .writeAll) ∨ c = .read := by
  decide

theorem witness_SampleInstants : fast.legal = true := by decide

/-- For ReadReturnsTheDeviceWord: a device that drives 1 in every tick presents 0xFF. -/
theorem witness_ReadReturnsTheDeviceWord :
    (quiet fast .eight 60 (List.replicate 60 true)).cfg.legal = true ∧
      (quiet fast .eight 60 (List.replicate 60 true)).cmdReady = true ∧ (Instr.readX8 127).command = .read ∧
      (Instr.readX8 127).wellFormed = true ∧ (0xFF : DataWord).toNat < 2 ^ 8 ∧
      (quiet fast .eight 60 (List.replicate 60 true)).noResetFor (csHighTicks fast .eight .read) ∧
      (quiet fast .eight 60 (List.replicate 60 true)).DevicePresents 0xFF := by
  refine ⟨by decide, by decide, by decide, by decide, by decide, quiet_noReset _ _ _ _ _ (by decide), ?_⟩
  intro j hj t h1 h2
  have hj : j < 8 := hj
  have ht : t < 60 := by
    have e : edgeTick fast (frameBits .eight .read + 2 + j) = 1 + 1 + (2 * (10 + 2 + j) - 1) * 1 := rfl
    have h2 : t < edgeTick fast (frameBits .eight .read + 2 + j) := h2
    omega
  have hd : (List.replicate 60 true)[t]? = some true := by rw [List.getElem?_replicate, if_pos ht]
  have : (quiet fast .eight 60 (List.replicate 60 true)).dinAt t = true := by
    show ((List.replicate 60 true)[t]?).getD (Config.freeDin (0 + t)) = true
    rw [hd]
    rfl
  rw [this]
  show true = (0xFF : DataWord).getLsbD (8 - 1 - j)
  have : ∀ j, j < 8 → true = (0xFF : DataWord).getLsbD (8 - 1 - j) := by decide
  exact this j hj

/-! ### Witnesses for the invariant statements -/

/-- A Read in its last data cycle meets the invariant. -/
theorem witness_Inv_rxh : (busyIn .rxh 0 0 true 1).Inv where
  legal := by decide
  command := .inr ⟨.read, 5, 0, ⟨0x185, 9⟩, rfl, rfl, rfl, rfl, rfl, by decide, by decide⟩
  timer := by decide
  response := by decide
  rdata := by decide

/-- A WriteEnable in its last frame bit meets the invariant. -/
theorem witness_Inv_txh : (busyIn .txh 0 1 false 0).Inv where
  legal := by decide
  command := .inr ⟨.writeEnable, 0, 0, ⟨0x130, 9⟩, rfl, rfl, rfl, by decide, by decide, rfl⟩
  timer := by decide
  response := by decide
  rdata := by decide

/-- For TxlTick: the states from which TXL is entered meet the invariant. -/
theorem witness_Inv_setup : (busyIn .setup 0 9 false 0).Inv where
  legal := by decide
  command := .inr ⟨.writeEnable, 0, 0, ⟨0x130, 9⟩, rfl, rfl, rfl, rfl, rfl⟩
  timer := by decide
  response := by decide
  rdata := by decide

theorem witness_Inv_txh_next : (busyIn .txh 0 2 false 0).Inv where
  legal := by decide
  command := .inr ⟨.writeEnable, 0, 0, ⟨0x130, 9⟩, rfl, rfl, rfl, by decide, by decide, rfl⟩
  timer := by decide
  response := by decide
  rdata := by decide

/-- A Read in its last frame bit meets the invariant, and its step enters DML. -/
theorem witness_Inv_lastBit : (busyIn .txh 0 1 true 16).Inv where
  legal := by decide
  command := .inr ⟨.read, 5, 0, ⟨0x185, 9⟩, rfl, rfl, rfl, by decide, by decide, rfl⟩
  timer := by decide
  response := by decide
  rdata := by decide

theorem witness_DummyCycleTicks :
    (after (step (busyIn .txh 0 1 true 16))).map (·.phase) = some .dml ∧ (busyIn .dml 1 0 true 16).cfg.legal = true ∧
      0 < (busyIn .dml 1 0 true 16).timer ∧ (busyIn .dmh 0 0 true 16).timer = 0 ∧
      ((busyIn .dmh 0 0 true 16).hostAt 0).rst = false := by decide

/-- A Read at the end of HOLD meets the invariant. -/
theorem witness_Inv_hold : (busyIn .hold 0 0 true 0).Inv where
  legal := by decide
  command := .inr ⟨.read, 5, 0, ⟨0x185, 9⟩, rfl, rfl, rfl, rfl, rfl⟩
  timer := by decide
  response := by decide
  rdata := by decide

/-- A ready CORE with a rejected transfer on its port meets the invariant. -/
theorem witness_Inv_idle : (presenting .sixteen 6 64 0).Inv where
  legal := by decide
  command := .inl ⟨rfl, rfl, rfl, rfl, rfl⟩
  timer := by decide
  response := by decide
  rdata := by decide

/-- For PhaseOrder and TicksKeepInvariant: the steps of a Read and of another command leave their phases. -/
theorem witness_PhaseOrder :
    (after (step (busyIn .rxh 0 0 true 1))).map (·.phase) = some .hold ∧
      (after (step (busyIn .txh 0 1 false 0))).map (·.phase) = some .hold ∧
      ((busyIn .rxh 0 0 true 1).hostAt 0).rst = false ∧ ((busyIn .txh 0 1 false 0).hostAt 0).rst = false := by decide

/-- For ResultRegisterWrites: the end of HOLD, and a rejection. -/
theorem witness_ResultRegisterWrites :
    (after (step (busyIn .hold 0 0 true 0))).map (fun t => (t.rspv, t.errcode)) = some (true, 0) ∧
      (after (step (presenting .sixteen 6 64 0))).map (fun t => (t.rspv, t.errcode)) = some (true, 1) ∧
      (presenting .sixteen 6 64 0).accepts = true := by decide

theorem witness_DinIsReadOnlyAtSamples :
    (busyIn .rxl 1 0 true 16).cfg.legal = true ∧
      ¬((busyIn .rxl 1 0 true 16).phase = .rxl ∧ (busyIn .rxl 1 0 true 16).timer.toNat = (busyIn .rxl 1 0 true 16).cfg.tHalf - 1) := by
  decide

theorem witness_OperandsAreCapturedAtAcceptance :
    (busyIn .txl 0 9 true 16).cfg.legal = true ∧ (busyIn .txl 0 9 true 16).phase ≠ .idle ∧
      (Instr.eraseX16 63).transfer.rst = false ∧ ((busyIn .txl 0 9 true 16).hostAt 0).rst = false := by decide

/-- For FrameOfATick: a step of each kind. -/
theorem witness_FrameOfATick :
    (after (step (busyIn .txl 0 9 true 16))).isSome = true ∧ (after (step (presenting .eight 6 127 0))).isSome = true := by decide

theorem witness_ReachableStatesMeetR39 :
    (presenting .eight 6 127 0).ReachableFromReset ∧ ((presenting .eight 6 127 0).hostAt 0).rst = false :=
  ⟨⟨_, _, _, _, _, 0, by decide, rfl⟩, by decide⟩

/-- The same WriteEnable with the host quiet for long enough. -/
def ending : State := { busyIn .txh 0 1 false 0 with host := List.replicate 60 (quietInput .sixteen) }

theorem witness_Inv_ending : ending.Inv where
  legal := by decide
  command := .inr ⟨.writeEnable, 0, 0, ⟨0x130, 9⟩, rfl, rfl, rfl, by decide, by decide, rfl⟩
  timer := by decide
  response := by decide
  rdata := by decide

theorem witness_CommandsInProgressEnd :
    ending.Inv ∧ ending.phase ≠ .idle ∧ ending.noResetFor (csHighTicks ending.cfg ending.org .read) :=
  ⟨witness_Inv_ending, by decide, fun j hj => quiet_noReset Config.default .sixteen 60 58 [] (by decide) j hj⟩

end Sys2Proof.Tests
end

/-! # Proofs about the configuration, the reset state, and the call trace of a command (`00_scope.md`) -/

namespace Sys2Proof

/-! ### The configuration (R6) -/

theorem Command.all_all_iff (q : Command → Bool) : Command.all.all q = true ↔ ∀ c, q c = true :=
  ⟨fun h c => List.all_eq_true.mp h c (by cases c <;> decide), fun h => List.all_eq_true.mpr fun c _ => h c⟩

/-- R6 clause by clause; the commands that have an EXT are those without an address (R75). -/
theorem OpcodeTable.legal_iff (t : OpcodeTable) :
    t.legal = true ↔
      (∀ c, (t.entry c).start = 1#1) ∧ (∀ c, (t.entry c).ext.isSome = !c.usesAddr) ∧ t.write.op = 0b01#2 ∧
        (t.writeAll.op = t.writeDisable.op ∧ t.eraseAll.op = t.writeDisable.op ∧
          t.writeEnable.op = t.writeDisable.op) ∧
        [t.writeDisable.ext, t.writeAll.ext, t.eraseAll.ext, t.writeEnable.ext].Nodup ∧
        [t.writeDisable.op, t.write.op, t.read.op, t.erase.op].Nodup := by
  simp only [OpcodeTable.legal, Bool.and_eq_true, Command.all_all_iff, beq_iff_eq, decide_eq_true_eq, and_assoc]

theorem OpcodeEntry.eq_mk {e : OpcodeEntry} {x : Option (BitVec 2)} (hs : e.start = 1) (hx : e.ext = x) :
    e = ⟨1, e.op, x⟩ := hs ▸ hx ▸ rfl

/-- A legal table, entry by entry. -/
theorem OpcodeTable.legal_iff_entries (t : OpcodeTable) :
    t.legal = true ↔
      ∃ op op' op'' x0 x1 x2 x3 : BitVec 2,
        t.writeDisable = ⟨1, op, some x0⟩ ∧ t.writeAll = ⟨1, op, some x1⟩ ∧ t.eraseAll = ⟨1, op, some x2⟩ ∧
        t.writeEnable = ⟨1, op, some x3⟩ ∧ t.write = ⟨1, 0b01#2, none⟩ ∧ t.read = ⟨1, op', none⟩ ∧
        t.erase = ⟨1, op'', none⟩ ∧ [op, 0b01#2, op', op''].Nodup ∧ [x0, x1, x2, x3].Nodup := by
  rw [OpcodeTable.legal_iff]
  constructor
  · rintro ⟨hs, hx, hw, ⟨h1, h2, h3⟩, hxs, hops⟩
    have extended : ∀ c, c.usesAddr = false → ∃ x, t.entry c = ⟨1, (t.entry c).op, some x⟩ := by
      intro c hc
      obtain ⟨x, e⟩ := Option.isSome_iff_exists.mp ((hx c).trans (by rw [hc]; rfl))
      exact ⟨x, OpcodeEntry.eq_mk (hs c) e⟩
    have plain : ∀ c, c.usesAddr = true → t.entry c = ⟨1, (t.entry c).op, none⟩ := by
      intro c hc
      have e : (t.entry c).ext.isSome = false := (hx c).trans (by rw [hc]; rfl)
      exact OpcodeEntry.eq_mk (hs c) (by simpa using e)
    obtain ⟨x0, e0⟩ := extended .writeDisable rfl
    obtain ⟨x1, e1⟩ := extended .writeAll rfl
    obtain ⟨x2, e2⟩ := extended .eraseAll rfl
    obtain ⟨x3, e3⟩ := extended .writeEnable rfl
    have e4 := plain .write rfl
    simp only [OpcodeTable.entry] at e0 e1 e2 e3 e4
    rw [h1] at e1; rw [h2] at e2; rw [h3] at e3; rw [hw] at e4 hops
    refine ⟨_, _, _, x0, x1, x2, x3, e0, e1, e2, e3, e4, plain .read rfl, plain .erase rfl, hops, ?_⟩
    rw [e0, e1, e2, e3] at hxs
    exact List.Nodup.of_map (f := some) (l := [x0, x1, x2, x3]) hxs
  · rintro ⟨op, op', op'', x0, x1, x2, x3, e0, e1, e2, e3, e4, e5, e6, hops, hxs⟩
    refine ⟨?_, ?_, by rw [e4], by simp [e0, e1, e2, e3], ?_, by simpa [e0, e4, e5, e6] using hops⟩
    · intro c; cases c <;> simp [OpcodeTable.entry, e0, e1, e2, e3, e4, e5, e6]
    · intro c; cases c <;> simp [OpcodeTable.entry, Command.usesAddr, e0, e1, e2, e3, e4, e5, e6]
    · rw [e0, e1, e2, e3]
      exact hxs.map (f := some) (Option.some_injective _)

theorem legalDuration_iff (n : Nat) : legalDuration n = true ↔ 1 ≤ n ∧ n ≤ 65535 := by
  simp [legalDuration]

theorem Params.legal_iff (p : Params) :
    p.legal = true ↔ (1 ≤ p.tHalf ∧ p.tHalf ≤ 65535) ∧ (1 ≤ p.tSetup ∧ p.tSetup ≤ 65535) ∧
      (1 ≤ p.tHold ∧ p.tHold ≤ 65535) ∧ p.opcodes.legal = true := by
  simp only [Params.legal, Bool.and_eq_true, legalDuration_iff, and_assoc]

theorem Command.isRead_iff (c : Command) : c.isRead = true ↔ c = .read := by cases c <;> decide

namespace Machine

/-- Settles O15: the table's legality, read entry by entry. -/
theorem legalConfigurations : Obligations.LegalConfigurations := by
  intro p
  rw [Params.legal_iff, OpcodeTable.legal_iff_entries]
  constructor
  · rintro ⟨hh, hs, ho, op, op', op'', x0, x1, x2, x3, e0, e1, e2, e3, e4, e5, e6, hn⟩
    exact ⟨hh, hs, ho, by simp [e0, e1, e2, e3, e4, e5, e6],
      op, op', op'', x0, x1, x2, x3, e0, e1, e2, e3, e4, e5, e6, hn⟩
  · rintro ⟨hh, hs, ho, -, entries⟩
    exact ⟨hh, hs, ho, entries⟩

/-! ### The steps of every configuration, and the reset state (R38, R214) -/

/-- Settles O16: on a legal configuration a step goes on (`step_legal`), on an illegal one it is refused. -/
theorem everyLegalTickGoesOn : Obligations.EveryLegalTickGoesOn := fun _ =>
  ⟨step_legal, step_illegal, fun r => nomatch r⟩

/-- Settles O34: `State.reset` holds the values of R38 by its definition. -/
theorem resetStateRegisters : Obligations.ResetStateRegisters :=
  ⟨rfl, rfl, rfl, rfl, rfl, rfl, rfl, rfl, rfl, rfl, rfl, rfl, rfl, rfl⟩

/-- Every state right after a reset meets the invariant, in any legal configuration and environment. -/
theorem State.resetWith_inv {p : Params} (hl : p.legal = true) (o : Org) (host : List HostInput) (din : List Level)
    (n : Nat) : (State.resetWith p o host din n).Inv where
  legal := hl
  command := .inl ⟨rfl, rfl, rfl, rfl, rfl⟩
  timer := fun h => absurd rfl h
  response := fun _ => rfl
  rdata := Nat.two_pow_pos _

/-- Settles O56: the reference configuration is legal. -/
theorem resetMeetsInvariant : Obligations.ResetMeetsInvariant :=
  State.resetWith_inv (by decide) _ _ _ _

/-! ### The instants of a Read's samples (R183, R186) -/

/-- The transmitter takes no sample, and its bits last `2·n·T_HALF` ticks (R136). -/
theorem sampleTimes_transmitTrace (h : Nat) (frame : FrameWord) (ops : List BusOp) (n now : Nat) :
    sampleTimes now (transmitTrace h frame n ++ ops) = sampleTimes (now + 2 * n * h) ops := by
  induction n generalizing now with
  | zero => simp [transmitTrace, sampleTimes]
  | succ n ih =>
    simp only [transmitTrace, List.cons_append, List.nil_append, sampleTimes, ih]
    congr 1
    ring

/-- Each data cycle takes its sample as it begins, and lasts `2·T_HALF` ticks (R183). -/
theorem sampleTimes_dataTrace (p : Params) (w now : Nat) :
    sampleTimes now (dataTrace p w ++ closeWindow p) = (List.range w).map (fun k => now + 2 * k * p.tHalf) := by
  induction w generalizing now with
  | zero => simp [dataTrace, closeWindow, sampleTimes]
  | succ w ih =>
    simp only [dataTrace, List.cons_append, List.nil_append, sampleTimes, ih, List.range_succ_eq_map, List.map_cons,
      List.map_map]
    congr 1
    · simp
    · refine List.map_congr_left fun k _ => ?_
      simp only [Function.comp_apply, Nat.succ_eq_add_one]
      ring

/-- The samples of a Read's call trace: one for each data cycle, after SETUP, the frame's N bits and the dummy cycle. -/
theorem sampleTimes_readTrace (p : Params) (org : Org) (f : Frame) :
    sampleTimes 0 (readTrace p org f) =
      (List.range org.wordWidth).map (fun k => p.tSetup + 2 * (f.bits + 1 + k) * p.tHalf) := by
  simp only [readTrace, openWindow, dummyTrace, List.append_assoc, List.cons_append, List.nil_append, sampleTimes,
    sampleTimes_transmitTrace, sampleTimes_dataTrace]
  refine List.map_congr_left fun k _ => ?_
  ring

/-- A sample lies half a bit after the rising edge before it. -/
theorem edgeTick_add_tHalf (p : Params) (org : Org) (k : Nat) :
    edgeTick p (frameBits org .read + 1 + k) + p.tHalf = sampleTick p org k := by
  simp only [edgeTick, sampleTick, show 2 * (frameBits org .read + 1 + k) - 1 = 2 * (frameBits org .read + k) + 1 by omega]
  ring

/-- A sample lies half a bit before the rising edge after it. -/
theorem sampleTick_add_tHalf (p : Params) (org : Org) (k : Nat) :
    sampleTick p org k + p.tHalf = edgeTick p (frameBits org .read + 2 + k) := by
  simp only [edgeTick, sampleTick,
    show 2 * (frameBits org .read + 2 + k) - 1 = 2 * (frameBits org .read + 1 + k) + 1 by omega]
  ring

/-- Settles O48: the trace's sample instants, by its segments, and the edges around each. -/
theorem sampleInstants : Obligations.SampleInstants := by
  intro p org value _
  refine ⟨?_, fun k _ => ⟨edgeTick_add_tHalf p org k, sampleTick_add_tHalf p org k⟩⟩
  rw [sampleTimes_readTrace, List.map_map]
  refine List.map_congr_left fun k _ => ?_
  simp only [Function.comp_apply, sampleTick]
  ring

/-! ### The waveform of a call trace (R157) -/

/-- The frame bits' lines, and CLK and DOUT low after them (R130, R133). -/
theorem waveform_transmitTrace (h : Nat) (frame : FrameWord) (ops : List BusOp) (n : Nat) (clk dout : Level) :
    waveform ⟨true, true, clk, dout⟩ (transmitTrace h frame n ++ ops) =
      bitPins h frame n ++ waveform ⟨true, true, false, false⟩ ops := by
  induction n generalizing clk dout with
  | zero => simp [transmitTrace, waveform, bitPins, Pins.apply]
  | succ n ih => simp [transmitTrace, waveform, bitPins, Pins.apply, ih]

theorem waveform_closeWindow (p : Params) (clk dout : Level) :
    waveform ⟨true, true, clk, dout⟩ (closeWindow p) = List.replicate p.tHold ⟨true, true, false, false⟩ := by
  simp [closeWindow, waveform, Pins.apply]

/-- The data cycles' lines, and HOLD's after them (R180). -/
theorem waveform_dataTrace (p : Params) (w : Nat) (clk : Level) :
    waveform ⟨true, true, clk, false⟩ (dataTrace p w ++ closeWindow p) =
      cyclePins p.tHalf w ++ List.replicate p.tHold ⟨true, true, false, false⟩ := by
  induction w generalizing clk with
  | zero => simpa [dataTrace, cyclePins] using waveform_closeWindow p clk false
  | succ w ih => simp [dataTrace, waveform, cyclePins, Pins.apply, ih]

/-- The waveform of Execute(f, N) is the window without cycles after the frame (R150). -/
theorem waveform_executeTrace (p : Params) (f : Frame) :
    waveform Pins.low (executeTrace p f) = windowPins p f.value f.bits 0 := by
  simp [executeTrace, openWindow, waveform, Pins.apply, Pins.low, waveform_transmitTrace, waveform_closeWindow, windowPins,
    cyclePins]

/-- The waveform of ReadExec is the window with the dummy cycle and W data cycles after the frame (R180). -/
theorem waveform_readTrace (p : Params) (org : Org) (f : Frame) :
    waveform Pins.low (readTrace p org f) = windowPins p f.value f.bits (1 + org.wordWidth) := by
  simp [readTrace, openWindow, dummyTrace, waveform, Pins.apply, Pins.low, waveform_transmitTrace, waveform_dataTrace,
    windowPins, Nat.add_comm 1, cyclePins]

/-- The cycles a command's window has after the frame bits: for a Read the dummy cycle and W data cycles (R187). -/
def tailCycles (org : Org) (c : Command) : Nat := if c.isRead then 1 + org.wordWidth else 0

theorem waveform_commandTrace (p : Params) (org : Org) (c : Command) (f : Frame) :
    waveform Pins.low (commandTrace p org c f) = windowPins p f.value f.bits (tailCycles org c) := by
  unfold commandTrace tailCycles
  split
  · exact waveform_readTrace p org f
  · exact waveform_executeTrace p f

/-! ### From acceptance to the response (R151 to R153) -/

/-- The state one tick after the acceptance of an instruction: SETUP has been entered with its frame (R151). -/
def State.accepted (s : State) (i : Instr) : State :=
  (s.load (encodeInstr s.cfg.opcodes i) i.command.isRead).passTick

theorem encode_wellFormed {i : Instr} (t : OpcodeTable) (hw : i.wellFormed = true) :
    encode t i.org i.command.code i.addr i.data = .ok (encodeInstr t i) := by
  simp only [encode, Command.ofCode_code, (wellFormed_iff i).mp hw, encodeInstr]

/-- A ready CORE takes a well-formed instruction of its organization. -/
theorem exec_wellFormed {s : State} {i : Instr} (hr : s.cmdReady = true) (ho : s.org = i.org)
    (hw : i.wellFormed = true) : exec i s = .next (s.accepted i) := by
  rw [exec_eq, State.commandTick, if_pos hr, State.accept, ho, encode_wellFormed _ hw, isRead_eq_code]
  rfl

/-- The accepted state is SETUP's entry with the frame's bit-count and, for a Read, W samples to take. -/
theorem State.accepted_eq_put (s : State) (i : Instr) :
    s.accepted i = (s.accepted i).put .setup (frameBits i.org i.command)
      (if i.command.isRead then s.org.wordWidth else 0) 0 := by
  unfold State.accepted
  cases i.command.isRead <;> rfl

/-- The host that keeps `rst = 0` from the acceptance tick on keeps it after that tick. -/
theorem State.accepted_quietFor {s : State} {k : Nat} (h : s.noResetFor k) (i : Instr) : (s.accepted i).QuietFor k := by
  intro j hj
  rw [State.hostAt_of_passed (s := s) (n := 1) (by simp [State.accepted]) (by simp [State.accepted])]
  exact h _ (by omega)

theorem csHighTicks_eq (p : Params) (org : Org) (c : Command) :
    csHighTicks p org c = p.tSetup + 2 * (frameBits org c + tailCycles org c) * p.tHalf + p.tHold := rfl

/-- RXACC at the response of an accepted instruction: the W samples of a Read, and 0 otherwise (R151, R183). -/
def State.finalAcc (s : State) (i : Instr) : DataWord :=
  if i.command.isRead then
    (s.accepted i).accFrom (s.cfg.tSetup + 2 * (frameBits s.org i.command + 1) * s.cfg.tHalf) 0 s.org.wordWidth
  else 0

/-- The run of an accepted instruction over its window, to its response. -/
theorem Runs.accepted {s : State} {i : Instr} (hl : s.cfg.legal = true) (ho : s.org = i.org)
    (hq : s.noResetFor (csHighTicks s.cfg s.org i.command)) :
    Runs (s.accepted i) (csHighTicks s.cfg s.org i.command)
      (((s.accepted i).passTicks (csHighTicks s.cfg s.org i.command)).responded 0 0 (s.finalAcc i))
      (windowPins s.cfg (encodeInstr s.cfg.opcodes i).value (frameBits s.org i.command) (tailCycles s.org i.command)) := by
  have hb : frameBits s.org i.command ≤ 32 := (frameBits_range _ _).2.trans (by decide)
  have hW : 1 ≤ s.org.wordWidth ∧ s.org.wordWidth ≤ 16 := by cases s.org <;> decide
  have hq' := State.accepted_quietFor hq i
  have hrd : (s.accepted i).isread = i.command.isRead := rfl
  have start := s.accepted_eq_put i
  rw [← ho] at start
  rw [csHighTicks_eq] at hq' ⊢
  rw [tailCycles] at hq' ⊢
  rw [State.finalAcc]
  cases hc : i.command.isRead <;> rw [hc] at hrd hq' start
  · have h := Runs.window (s := s.accepted i) (r := 0) (acc := 0) hl hb (by simp [hrd]) (by rw [hrd]; exact hq')
    rw [hrd] at h
    exact start ▸ h
  · have h := Runs.window (s := s.accepted i) (r := s.org.wordWidth) (acc := 0) hl hb (fun _ => hW)
      (by rw [hrd]; exact hq')
    rw [hrd] at h
    exact start ▸ h

/-- Outside a command every line is low, in reset or not (R36). -/
theorem State.pins_idle {s : State} (hp : s.phase = .idle) : s.pins = Pins.low := by
  simp [State.pins, State.phasePins, hp]

theorem pinsDuring_one (s : State) : pinsDuring 1 s = [s.pins] := by
  rw [pinsDuring]
  cases step s <;> rfl

/-- Settles O44: the lines over the window are `windowPins`, which is the waveform of the call trace. -/
theorem acceptedCommandShowsItsCallTrace : Obligations.AcceptedCommandShowsItsCallTrace := by
  intro s i hl hr ho hw hq
  refine ⟨State.pins_idle ((s.cmdReady_iff).mp hr).1, s.accepted i, exec_wellFormed hr ho hw, ?_⟩
  have window := Runs.accepted hl ho hq
  have trace := waveform_commandTrace s.cfg s.org i.command (encodeInstr s.cfg.opcodes i)
  simp only [commandTrace, Command.isRead_iff] at trace
  rw [pinsDuring_add window.run, window.pins, pinsDuring_one, State.pins_idle rfl]
  show _ = waveform Pins.low _ ++ [Pins.low]
  rw [trace, ho]
  rfl

end Machine

end Sys2Proof

/-! # Proofs about the registers and the tick (`10_state.md`) -/

namespace Sys2Proof

/-! ### Widths and fields (R3, R74, R105) -/

theorem Org.wordWidth_range (o : Org) : 8 ≤ o.wordWidth ∧ o.wordWidth ≤ 16 := by cases o <;> decide

/-- A field of `w` bits at an offset takes no bit above them. -/
theorem setWidth_shiftLeft_lt {w k n : Nat} (x : BitVec w) (hn : w + k ≤ n) : (x.setWidth 32 <<< k).toNat < 2 ^ n := by
  rw [BitVec.toNat_shiftLeft, BitVec.toNat_setWidth, Nat.shiftLeft_eq]
  calc x.toNat % 2 ^ 32 * 2 ^ k % 2 ^ 32 ≤ x.toNat % 2 ^ 32 * 2 ^ k := Nat.mod_le _ _
    _ ≤ x.toNat * 2 ^ k := Nat.mul_le_mul_right _ (Nat.mod_le _ _)
    _ < 2 ^ w * 2 ^ k := Nat.mul_lt_mul_of_pos_right x.isLt (Nat.two_pow_pos k)
    _ ≤ 2 ^ n := by rw [← Nat.pow_add]; exact Nat.pow_le_pow_right (by decide) hn

theorem fieldAt_lt {w n : Nat} {off : Option Nat} (v : Operand) (hn : ∀ k ∈ off, w + k ≤ n) :
    (fieldAt v w off).toNat < 2 ^ n := by
  cases off with
  | none => exact Nat.two_pow_pos _
  | some k => exact setWidth_shiftLeft_lt _ (hn k rfl)

/-- The address field ends below the opcode bits (R74, R76). -/
theorem layout_addrOff_le (t : OpcodeTable) (org : Org) (c : Command) :
    ∀ k ∈ (layout t org c).addrOff, org.addrWidth + k ≤ frameBits org c := by
  cases org <;> cases c <;> simp [layout, frameBits, Command.usesAddr, Command.usesData, Org.addrWidth, Org.wordWidth]

/-- The data field ends below the address field (R74, R76). -/
theorem layout_dataOff_le (t : OpcodeTable) (org : Org) (c : Command) :
    ∀ k ∈ (layout t org c).dataOff, org.wordWidth + k ≤ frameBits org c := by
  cases org <;> cases c <;> simp [layout, frameBits, Command.usesData, Org.addrWidth, Org.wordWidth]

theorem layout_pattern_lt (t : OpcodeTable) (org : Org) (c : Command) :
    (layout t org c).pattern.toNat < 2 ^ frameBits org c := by
  have hn := Machine.frameBits_range org c
  have hhead := setWidth_shiftLeft_lt ((t.entry c).start ++ (t.entry c).op)
    (show 1 + 2 + (frameBits org c - 3) ≤ frameBits org c by omega)
  simp only [layout]
  cases (t.entry c).ext with
  | none => exact hhead
  | some x =>
    rw [BitVec.toNat_or]
    exact Nat.or_lt_two_pow hhead (setWidth_shiftLeft_lt x (by omega))

/-- Concatenation is the OR of its parts, the first moved above the second (R105). -/
theorem setWidth_append {n m : Nat} (x : BitVec n) (y : BitVec m) :
    (x ++ y).setWidth 32 = x.setWidth 32 <<< m ||| y.setWidth 32 := by
  ext i hi
  by_cases him : i < m
  · simp [BitVec.getLsbD_append, him]
  · simp [BitVec.getLsbD_append, him, BitVec.getLsbD_of_ge y i (by omega)]

/-- The frame of a command with an address and no data: the start bit, OP and the address (R74). -/
theorem packFrame_address {t : OpcodeTable} (ht : t.legal = true) (org : Org) {c : Command} (ha : c.usesAddr = true)
    (hd : c.usesData = false) (a d : Operand) :
    (packFrame t org c a d).value = (1#1 ++ (t.entry c).op ++ a.setWidth org.addrWidth).setWidth 32 := by
  obtain ⟨hs, hx, -⟩ := t.legal_iff.mp ht
  have hext : (t.entry c).ext = none := by simpa [ha] using hx c
  simp only [packFrame, layout, hext, hs c, ha, hd, if_true, Bool.false_eq_true, if_false, fieldAt,
    frameBits, setWidth_append (1#1 ++ (t.entry c).op)]
  simp

namespace Machine

/-- A packed frame has no bit above its N (R73, R105). -/
theorem packFrame_value_lt (t : OpcodeTable) (org : Org) (c : Command) (a d : Operand) :
    (packFrame t org c a d).value.toNat < 2 ^ frameBits org c := by
  rw [packFrame, BitVec.toNat_or, BitVec.toNat_or]
  exact Nat.or_lt_two_pow
    (Nat.or_lt_two_pow (layout_pattern_lt t org c) (fieldAt_lt a (layout_addrOff_le t org c)))
    (fieldAt_lt d (layout_dataOff_le t org c))

/-! ### Every tick without reset, said once (R33) -/

/-- What the encoder answers to the transfer on the command port, under ORG (R100). -/
abbrev State.portAnswer (s : State) : Except Cause Frame :=
  encode s.cfg.opcodes s.org (s.hostAt 0).cmdOp (s.hostAt 0).cmdAddr (s.hostAt 0).cmdData

/-- Every way the registers can change in a tick with `rst = 0`: a rejection, the load of a command's frame, or the tick
of the phase. -/
inductive TickStep (s : State) : State → Prop where
  | reject (cause : Cause) (ha : s.accepts = true) (he : s.portAnswer = .error cause) : TickStep s (s.reject cause)
  | load (c : Command) (f : Frame) (ha : s.accepts = true) (hc : (s.hostAt 0).cmdOp = c.code)
      (he : s.portAnswer = .ok f) : TickStep s (s.load f c.isRead)
  | phase (u : State) (ha : s.accepts = false) (hu : PhaseStep s u) : TickStep s u

variable {s t u : State}

theorem step_tickStep (h : step s = .next t) (hr : (s.hostAt 0).rst = false) : ∃ u, TickStep s u ∧ t = u.passTick := by
  obtain ⟨-, ⟨hr', -⟩ | ⟨ha, rfl⟩ | ⟨-, ha, rfl⟩⟩ := step_cases h
  · rw [hr] at hr'; cases hr'
  · obtain ⟨cause, he, e⟩ | ⟨f, he, e⟩ :=
      s.accept_cases (s.hostAt 0).cmdOp (s.hostAt 0).cmdAddr (s.hostAt 0).cmdData
    · exact ⟨_, .reject cause ha he, by rw [e]⟩
    · obtain ⟨c, hc, -, -⟩ := encode_ok he
      exact ⟨_, .load c f ha hc he, by rw [e, ← isRead_eq_code, hc]⟩
  · exact ⟨_, .phase _ ha s.phaseTick_step, rfl⟩

/-- A command is accepted in IDLE only (R21, R154). -/
theorem State.idle_of_accepts (ha : s.accepts = true) : s.phase = .idle := (s.accepts_iff.mp ha).1

/-- While a command is in progress the tick is the phase's. -/
theorem TickStep.phaseStep (h : TickStep s u) (hp : s.phase ≠ .idle) : PhaseStep s u := by
  cases h with
  | reject _ ha _ => exact absurd (State.idle_of_accepts ha) hp
  | load _ _ ha _ _ => exact absurd (State.idle_of_accepts ha) hp
  | phase _ _ hu => exact hu

/-! ### The invariant, register by register (R39) -/

theorem PhaseStep.sr (h : PhaseStep s u) : u.sr = s.sr := by cases h <;> rfl

theorem PhaseStep.isread (h : PhaseStep s u) : u.isread = s.isread := by cases h <;> rfl

theorem PhaseStep.sameEnvironment (h : PhaseStep s u) : SameEnvironment s u := by
  cases h <;> exact ⟨rfl, rfl, rfl, rfl, rfl⟩

/-- The counters stay at home in their command from phase to phase (R39(b), (d), (e)). -/
theorem PhaseStep.countersAt {n : Nat} {rd : Bool} (h : PhaseStep s u) (hrd : s.isread = rd) (hc : s.CountersAt n rd) :
    u.CountersAt n rd := by
  subst hrd
  unfold State.CountersAt at hc
  cases h with
  | idle => exact hc
  | count => exact hc
  | setupBits hp _ hb =>
    rw [hp] at hc
    obtain ⟨hn, hrx⟩ := hc
    exact ⟨by show 1 ≤ s.bitcnt.toNat; bv_omega, hn.le, hrx⟩
  | setupDummy hp _ hb hr =>
    rw [hp, hr] at hc
    exact ⟨hr, congrArg _ hb, hc.2⟩
  | setupHold hp _ hb hr =>
    rw [hp, hr] at hc
    exact ⟨congrArg _ hb, hc.2⟩
  | txl hp => rw [hp] at hc; exact hc
  | txhNext hp _ hb =>
    rw [hp] at hc
    obtain ⟨hlo, hhi, hrx⟩ := hc
    exact ⟨by show 1 ≤ (s.bitcnt - 1).toNat; bv_omega, by show (s.bitcnt - 1).toNat ≤ n; bv_omega, hrx⟩
  | txhDummy hp _ _ hr =>
    rw [hp, hr] at hc
    exact ⟨hr, rfl, hc.2.2⟩
  | txhHold hp _ _ hr =>
    rw [hp, hr] at hc
    exact ⟨rfl, hc.2.2⟩
  | dml hp => rw [hp] at hc; exact hc
  | dmh hp =>
    rw [hp] at hc
    obtain ⟨hr, hb, hrx⟩ := hc
    exact ⟨hr, hb, hrx ▸ (Org.wordWidth_range _).1.trans' (by decide), hrx.le⟩
  | rxl hp => rw [hp] at hc; exact hc
  | rxhNext hp _ hb =>
    rw [hp] at hc
    obtain ⟨hr, h0, hlo, hhi⟩ := hc
    exact ⟨hr, h0, by show 1 ≤ (s.rxcnt - 1).toNat; bv_omega, by show (s.rxcnt - 1).toNat ≤ s.org.wordWidth; bv_omega⟩
  | rxhHold hp =>
    rw [hp] at hc
    exact ⟨hc.2.1, rfl⟩
  | hold hp => rw [hp] at hc; exact hc

theorem PhaseStep.holdsCommand (h : PhaseStep s u) (hc : s.HoldsCommand) : u.HoldsCommand := by
  obtain ⟨c, a, d, f, he, hsr, hrd, hn⟩ := hc
  have env := h.sameEnvironment
  exact ⟨c, a, d, f, by rw [env.cfg, env.org, he], h.sr.trans hsr, h.isread.trans hrd, h.countersAt hrd hn⟩

/-- The tick of IDLE ends the response and writes nothing else (R151). -/
theorem PhaseStep.eq_of_idle (h : PhaseStep s u) (hp : s.phase = .idle) : u = { s with rspv := false } := by
  cases h with
  | idle => rfl
  | count hp' => exact absurd hp hp'
  | _ hp' => rw [hp] at hp'; cases hp'

/-- A phase that is entered is entered with TIMER one less than its duration (R28). -/
theorem State.enter_timer_toNat {p : Phase} (hl : s.cfg.legal = true) (hp : p ≠ .idle) :
    (s.enter p (p.duration s.cfg)).timer.toNat = p.duration s.cfg - 1 := by
  have := Phase.duration_range hl hp
  rw [State.enter_timer, BitVec.toNat_ofNat, Nat.mod_eq_of_lt (by omega)]

/-- The tick of a timed phase counts TIMER down in it, or enters another phase with the whole of its duration to go, or
ends in IDLE (R28). -/
theorem PhaseStep.timer_cases (h : PhaseStep s u) (hl : s.cfg.legal = true) (hp : s.phase ≠ .idle) :
    (0 < s.timer ∧ u.phase = s.phase ∧ u.timer = s.timer - 1) ∨
      (s.timer = 0 ∧ u.phase ≠ s.phase ∧ (u.phase ≠ .idle → u.timer.toNat = u.phase.duration s.cfg - 1)) := by
  cases h with
  | idle hp' => exact absurd hp' hp
  | count _ ht => exact .inl ⟨ht, rfl, rfl⟩
  | hold hp' ht => exact .inr ⟨ht, by simp [hp'], fun h => absurd rfl h⟩
  | _ hp' ht => exact .inr ⟨ht, by simp [hp'], fun h => State.enter_timer_toNat hl h⟩

theorem readResult_toNat (o : Org) (acc : DataWord) : (readResult o acc).toNat = acc.toNat % 2 ^ o.wordWidth := by
  rw [readResult, BitVec.toNat_setWidth_of_le (by cases o <;> decide), BitVec.toNat_setWidth]

theorem readResult_eq (o : Org) (acc : DataWord) : readResult o acc = BitVec.ofNat 16 (acc.toNat % 2 ^ o.wordWidth) := by
  rw [← readResult_toNat, BitVec.ofNat_toNat, BitVec.setWidth_eq]

/-- RDATA holds the W bits of a finished Read, or what it held (R34, R185). -/
theorem PhaseStep.rdata_lt (h : PhaseStep s u) (hd : s.rdata.toNat < 2 ^ s.org.wordWidth) :
    u.rdata.toNat < 2 ^ s.org.wordWidth := by
  cases h with
  | hold =>
    show (if s.isread then readResult s.org s.rxacc else s.rdata).toNat < _
    split
    · rw [readResult_toNat]; exact Nat.mod_lt _ (Nat.two_pow_pos _)
    · exact hd
  | _ => exact hd

/-- A response is given by the end of HOLD only, which enters IDLE (R34, R153). -/
theorem PhaseStep.idle_of_rspv (h : PhaseStep s u) (hs : s.rspv = true → s.phase = .idle) (hu : u.rspv = true) :
    u.phase = .idle := by
  cases h with
  | idle => cases hu
  | count hp => exact absurd (hs hu) hp
  | hold => rfl
  | _ hp => cases (hs hu).symm.trans hp

theorem State.Inv.holdsCommand (hi : s.Inv) (hp : s.phase ≠ .idle) : s.HoldsCommand :=
  hi.command.resolve_left fun h => hp h.1

theorem PhaseStep.inv (h : PhaseStep s u) (hi : s.Inv) : u.Inv := by
  have env := h.sameEnvironment
  by_cases hp : s.phase = .idle
  · obtain rfl := h.eq_of_idle hp
    exact ⟨hi.legal, hi.command, hi.timer, fun _ => hp, hi.rdata⟩
  refine ⟨env.cfg ▸ hi.legal, .inr (h.holdsCommand (hi.holdsCommand hp)), fun hu => ?_, h.idle_of_rspv hi.response,
    env.org ▸ h.rdata_lt hi.rdata⟩
  rw [env.cfg]
  obtain ⟨ht, hph, e⟩ | ⟨-, -, e⟩ := h.timer_cases hi.legal hp
  · have := hi.timer hp
    rw [hph, e]
    bv_omega
  · have := Phase.duration_range hi.legal hu
    rw [e hu]
    omega

/-- The load of an encoder's frame starts its command: all N bits to send and, for a Read, W samples to take (R151). -/
theorem State.load_holdsCommand {c : Command} {a d : Operand} {f : Frame}
    (he : encode s.cfg.opcodes s.org c.code a d = .ok f) : (s.load f c.isRead).HoldsCommand := by
  obtain ⟨c', -, -, hf⟩ := encode_ok he
  have hb : f.bits ≤ 25 := by rw [hf]; exact (frameBits_range s.org c').2
  refine ⟨c, a, d, f, he, rfl, rfl, ?_, ?_⟩
  · exact Nat.mod_eq_of_lt (by omega)
  · have := Org.wordWidth_range s.org
    show (if c.isRead then BitVec.ofNat 5 s.org.wordWidth else 0).toNat = _
    cases c.isRead
    · rfl
    · exact Nat.mod_eq_of_lt (by omega : s.org.wordWidth < 2 ^ 5)

theorem State.load_inv {c : Command} {a d : Operand} {f : Frame} (hi : s.Inv)
    (he : encode s.cfg.opcodes s.org c.code a d = .ok f) : (s.load f c.isRead).Inv where
  legal := hi.legal
  command := .inr (State.load_holdsCommand he)
  timer := fun hp => by
    have hd : 1 ≤ Phase.setup.duration s.cfg := (Phase.duration_range hi.legal hp).1
    have entered : (s.load f c.isRead).timer.toNat = Phase.setup.duration s.cfg - 1 :=
      State.enter_timer_toNat hi.legal hp
    exact entered ▸ Nat.sub_one_lt_of_lt hd
  response := fun h => by cases h
  rdata := hi.rdata

theorem State.reject_inv (hi : s.Inv) (hp : s.phase = .idle) (cause : Cause) : (s.reject cause).Inv :=
  ⟨hi.legal, hi.command, hi.timer, fun _ => hp, hi.rdata⟩

theorem State.passTick_inv (hi : s.Inv) : s.passTick.Inv :=
  ⟨hi.legal, hi.command, hi.timer, hi.response, hi.rdata⟩

theorem TickStep.inv (h : TickStep s u) (hi : s.Inv) : u.Inv := by
  cases h with
  | reject cause ha => exact State.reject_inv hi (State.idle_of_accepts ha) cause
  | load c f _ hc he => exact State.load_inv hi (by rw [← hc]; exact he)
  | phase _ _ hu => exact hu.inv hi

/-- Reset comes before every other rule (R33, R240). -/
theorem step_reset (h : step s = .next t) (hr : (s.hostAt 0).rst = true) :
    t = (s.resetRegisters (Org.ofLevel (s.hostAt 0).org)).passTick := by
  obtain ⟨-, ⟨-, e⟩ | ⟨ha, -⟩ | ⟨hr', -⟩⟩ := step_cases h
  · exact e
  · rw [((s.accepts_iff).mp ha).2.1] at hr; cases hr
  · rw [hr'] at hr; cases hr

/-- Settles O57: a reset tick leads to a reset state (`State.resetWith_inv`), every other tick keeps the invariant
(`TickStep.inv`). -/
theorem ticksKeepInvariant : Obligations.TicksKeepInvariant := by
  intro s t hi h
  cases hr : (s.hostAt 0).rst
  · obtain ⟨u, hu, rfl⟩ := step_tickStep h hr
    exact State.passTick_inv (hu.inv hi)
  · rw [step_reset h hr]
    exact State.resetWith_inv hi.legal _ _ _ _

/-! ### Reachable states (R39) -/

theorem run_inv {k : Nat} (hi : s.Inv) (h : run k s = .next t) : t.Inv := by
  induction k generalizing s with
  | zero => cases h; exact hi
  | succ k ih =>
    obtain ⟨u, hs, h⟩ := run_succ_inv h
    exact ih (ticksKeepInvariant s u hi hs) h

theorem State.ReachableFromReset.inv (h : s.ReachableFromReset) : s.Inv := by
  obtain ⟨p, o, host, din, n, k, hl, h⟩ := h
  exact run_inv (State.resetWith_inv hl o host din n) h

/-- The lines CS and ACT are one (R25). -/
theorem State.pins_act (s : State) : s.pins.act = s.pins.cs := by
  rw [State.pins]
  split
  · rfl
  · rw [State.phasePins]
    split <;> rfl

/-- R39(b), (c): the frame in SR, and BITCNT within it while its bits are sent. -/
theorem State.HoldsCommand.frame (h : s.HoldsCommand) :
    ∃ (c : Command) (a d : Operand) (f : Frame), encode s.cfg.opcodes s.org c.code a d = .ok f ∧
      (s.phase = .txl ∨ s.phase = .txh → 1 ≤ s.bitcnt.toNat ∧ s.bitcnt.toNat ≤ f.bits) ∧ f.bits ≤ 25 ∧
      s.sr = f.value ∧ s.sr.toNat < 2 ^ f.bits := by
  obtain ⟨c, a, d, f, he, hsr, -, hn⟩ := h
  obtain ⟨c', -, -, hf⟩ := encode_ok he
  refine ⟨c, a, d, f, he, ?_, ?_, hsr, ?_⟩
  · rintro (hp | hp) <;> simp only [State.CountersAt, hp] at hn <;> exact ⟨hn.1, hn.2.1⟩
  · rw [hf]; exact (frameBits_range s.org c').2
  · rw [hsr, hf]; exact packFrame_value_lt _ _ _ _ _

/-- R39(d): past the frame bits the command is a Read, with no bit left to send. -/
theorem State.HoldsCommand.receiving (h : s.HoldsCommand)
    (hp : s.phase = .dml ∨ s.phase = .dmh ∨ s.phase = .rxl ∨ s.phase = .rxh) : s.isread = true ∧ s.bitcnt = 0 := by
  obtain ⟨c, -, -, f, -, -, hrd, hn⟩ := h
  rcases hp with hp | hp | hp | hp <;> simp only [State.CountersAt, hp] at hn <;>
    exact ⟨hrd.trans hn.1, BitVec.eq_of_toNat_eq hn.2.1⟩

/-- R39(e): samples are left to take while data cycles run. -/
theorem State.HoldsCommand.samplesLeft (h : s.HoldsCommand) (hp : s.phase = .rxl ∨ s.phase = .rxh) :
    1 ≤ s.rxcnt.toNat ∧ s.rxcnt.toNat ≤ s.org.wordWidth := by
  obtain ⟨c, -, -, f, -, -, -, hn⟩ := h
  rcases hp with hp | hp <;> simp only [State.CountersAt, hp] at hn <;> exact hn.2.2

/-- Settles O58: a reached state meets the invariant, by induction on the run; each clause is read off it. -/
theorem reachableStatesMeetR39 : Obligations.ReachableStatesMeetR39 := by
  intro s h _
  have hi := h.inv
  refine ⟨by cases s.phase <;> decide, hi.command.imp_right State.HoldsCommand.frame, fun hp => ?_, fun hp => ?_,
    State.pins_idle, s.pins_act.symm⟩
  · exact (hi.holdsCommand (by rcases hp with hp | hp | hp | hp <;> simp [hp])).receiving hp
  · exact (hi.holdsCommand (by rcases hp with hp | hp <;> simp [hp])).samplesLeft hp

/-! ### What a tick writes, register by register (R29 to R34) -/

theorem PhaseStep.bitcnt (h : PhaseStep s u) (hp : s.phase ≠ .txh) : u.bitcnt = s.bitcnt := by
  cases h with
  | txhNext hp' => exact absurd hp' hp
  | txhDummy hp' => exact absurd hp' hp
  | txhHold hp' => exact absurd hp' hp
  | _ => rfl

theorem PhaseStep.rxcnt (h : PhaseStep s u) (hp : s.phase ≠ .rxh) : u.rxcnt = s.rxcnt := by
  cases h with
  | rxhNext hp' => exact absurd hp' hp
  | rxhHold hp' => exact absurd hp' hp
  | _ => rfl

theorem PhaseStep.rxacc (h : PhaseStep s u) (hp : s.phase ≠ .rxl) : u.rxacc = s.rxacc := by
  cases h with
  | count => exact if_neg hp
  | rxl hp' => exact absurd hp' hp
  | _ => rfl

/-- The response and the result are written by the end of HOLD, and by no other tick of a command (R34, R153). -/
theorem PhaseStep.result_cases (h : PhaseStep s u) (hp : s.phase ≠ .idle) :
    (s.phase = .hold ∧ s.timer = 0 ∧ u.rspv = true ∧ u.errcode = 0 ∧
        u.rdata = if s.isread then readResult s.org s.rxacc else s.rdata) ∨
      (¬(s.phase = .hold ∧ s.timer = 0) ∧ u.rspv = s.rspv ∧ u.errcode = s.errcode ∧ u.rdata = s.rdata) := by
  cases h with
  | idle hp' => exact absurd hp' hp
  | count _ ht => exact .inr ⟨fun h => by simp [h.2] at ht, rfl, rfl, rfl⟩
  | hold hp' ht => exact .inl ⟨hp', ht, rfl, rfl, rfl⟩
  | _ hp' => exact .inr ⟨by simp [hp'], rfl, rfl, rfl⟩

/-- A tick of IDLE writes ERRCODE and RSPV only, or loads an accepted command (R151). -/
theorem TickStep.idle_cases (h : TickStep s u) (hp : s.phase = .idle) :
    u = { s with errcode := u.errcode, rspv := u.rspv } ∨
      ∃ (c : Command) (f : Frame), s.accepts = true ∧ s.portAnswer = .ok f ∧ u = s.load f c.isRead := by
  cases h with
  | reject => exact .inl rfl
  | load c f ha _ he => exact .inr ⟨c, f, ha, he, rfl⟩
  | phase _ _ hu => rw [hu.eq_of_idle hp]; exact .inl rfl

/-- Settles O54: the environment by `step_environment`, the registers by the tick of the phase (`PhaseStep`) or of IDLE. -/
theorem frameOfATick : Obligations.FrameOfATick := by
  intro s t h
  obtain ⟨hcfg, hhost, hdin, htick⟩ := step_environment h
  refine ⟨hcfg, hhost, hdin, htick, fun hr => ?_⟩
  obtain ⟨u, hu, rfl⟩ := step_tickStep h hr
  simp only [State.passTick_org, State.passTick_sr, State.passTick_isread, State.passTick_bitcnt, State.passTick_rxcnt,
    State.passTick_rxacc, State.passTick_errcode, State.passTick_rspv, State.passTick_rdata, State.passTick_phase,
    State.passTick_timer]
  by_cases hp : s.phase = .idle
  · obtain e | ⟨c, f, -, -, rfl⟩ := hu.idle_cases hp
    · rw [e]; simp [hp]
    · simp [hp]
  · have hs := hu.phaseStep hp
    have kept : s.phase ≠ .hold → u.rspv = s.rspv ∧ u.errcode = s.errcode ∧ u.rdata = s.rdata := fun hh =>
      ((hs.result_cases hp).resolve_left fun h => hh h.1).2
    exact ⟨hs.sameEnvironment.org, fun _ => ⟨hs.sr, hs.isread⟩, fun h _ => hs.bitcnt h, fun h _ => hs.rxcnt h,
      fun h _ => hs.rxacc h, fun h _ => ⟨(kept h).2.1, (kept h).1⟩, fun h => (kept h).2.2, fun h => absurd h hp⟩

/-- Settles O22: a phase counts down or is left with the next one's duration loaded (`PhaseStep.timer_cases`); IDLE keeps
TIMER until SETUP is entered. -/
theorem timerCountsDown : Obligations.TimerCountsDown := by
  intro s t h hr
  have hl := (step_cases h).1
  obtain ⟨u, hu, rfl⟩ := step_tickStep h hr
  simp only [State.passTick_phase, State.passTick_timer]
  by_cases hp : s.phase = .idle
  · refine ⟨absurd hp, absurd hp, fun hne _ => ?_, fun _ hq => ?_⟩
    all_goals obtain e | ⟨c, f, -, -, rfl⟩ := hu.idle_cases hp
    · rw [e] at hne; exact absurd rfl hne
    · exact State.enter_timer_toNat hl (p := .setup) (by decide)
    · rw [e]
    · cases hq
  · obtain ⟨ht, hph, e⟩ | ⟨ht, hne, e⟩ := (hu.phaseStep hp).timer_cases hl hp
    · exact ⟨fun _ _ => ⟨hph, by rw [e]; bv_omega⟩, fun _ h0 => by bv_omega, fun h => absurd hph h, fun h => absurd h hp⟩
    · exact ⟨fun _ h0 => by simp [ht] at h0, fun _ _ => hne, fun _ => e, fun h => absurd h hp⟩

/-! ### The length of a phase (R28) -/

theorem State.StaysFor.succ {p : Phase} {n : Nat} (hs : step s = .next t) (hp : s.phase = p) (ht : t.StaysFor p n) :
    s.StaysFor p (n + 1) := by
  obtain ⟨hin, hend⟩ := ht
  refine ⟨fun j hj => ?_, by rwa [run_succ_next hs]⟩
  cases j with
  | zero => exact ⟨s, rfl, hp⟩
  | succ j => rw [run_succ_next hs]; exact hin j (by omega)

/-- A phase lasts one tick more than its TIMER says. -/
theorem State.staysFor_timer {n : Nat} (hl : s.cfg.legal = true) (hp : s.phase ≠ .idle) (hn : s.timer.toNat = n)
    (hq : s.QuietFor (n + 1)) : s.StaysFor s.phase (n + 1) := by
  induction n generalizing s with
  | zero =>
    obtain ⟨t, hs⟩ := step_legal hl
    obtain ⟨-, hend, -, -⟩ := timerCountsDown s t hs (hq 0 (by omega))
    exact ⟨fun j hj => ⟨s, by rw [show j = 0 by omega]; rfl, rfl⟩, t, by rw [run_succ_next hs]; rfl, hend hp hn⟩
  | succ n ih =>
    obtain ⟨t, hs⟩ := step_legal hl
    obtain ⟨hcount, -, -, -⟩ := timerCountsDown s t hs (hq 0 (by omega))
    obtain ⟨hcfg, hhost, -, htick⟩ := step_environment hs
    obtain ⟨hph, ht⟩ := hcount hp (by omega)
    have hq' : t.QuietFor (n + 1) :=
      State.QuietFor.after (a := 1) (hq.mono (by omega)) (by rw [hhost, List.drop_one]) htick
    have rest := ih (s := t) (hcfg ▸ hl) (hph ▸ hp) (by omega) hq'
    exact State.StaysFor.succ hs rfl (hph ▸ rest)

/-- Settles O23: TIMER one less than the duration leaves exactly the duration (`State.staysFor_timer`). -/
theorem phasesLastTheirDuration : Obligations.PhasesLastTheirDuration := by
  intro s hl hp ht hq
  have hd : s.timer.toNat + 1 = s.phase.duration s.cfg := by
    have := Phase.duration_range hl hp
    omega
  rw [← hd] at hq ⊢
  exact State.staysFor_timer hl hp rfl fun j hj => hq j hj.le

/-! ### The order of the phases (R27, R181) -/

/-- An accepted command has bits to send when SETUP ends (R152). -/
theorem State.HoldsCommand.bitsToSend (h : s.HoldsCommand) (hp : s.phase = .setup) : s.bitcnt ≠ 0 := by
  obtain ⟨c, _, _, f, he, -, -, hn⟩ := h
  obtain ⟨c', -, -, hf⟩ := encode_ok he
  have hb : 9 ≤ f.bits := by rw [hf]; exact (frameBits_range s.org c').1
  simp only [State.CountersAt, hp] at hn
  intro h0
  rw [h0] at hn
  have : (0 : BitVec 6).toNat = 0 := rfl
  omega

/-- Settles O55: the move is acceptance or the end of a phase; a Read is told by ISREAD at the last TXH, and only a Read
comes past it. -/
theorem phaseOrder : Obligations.PhaseOrder := by
  intro s t hi h hr hne
  obtain ⟨u, hu, rfl⟩ := step_tickStep h hr
  rw [State.passTick_phase] at hne ⊢
  by_cases hp : s.phase = .idle
  · obtain e | ⟨c, f, -, -, rfl⟩ := hu.idle_cases hp
    · rw [e] at hne; exact absurd rfl hne
    · rw [hp]; split <;> simp
  have hc := hi.holdsCommand hp
  cases hu.phaseStep hp with
  | idle hp' => exact absurd hp' hp
  | count => exact absurd rfl hne
  | setupDummy hp _ hb => exact absurd hb (hc.bitsToSend hp)
  | setupHold hp _ hb => exact absurd hb (hc.bitsToSend hp)
  | txhDummy hp _ _ hrd => simp [hp, hrd]
  | txhHold hp _ _ hrd => simp [hp, hrd]
  | dml hp => simp [hp, (hc.receiving (by simp [hp])).1]
  | dmh hp => simp [hp, (hc.receiving (by simp [hp])).1]
  | rxl hp => simp [hp, (hc.receiving (by simp [hp])).1]
  | rxhNext hp => simp [hp, (hc.receiving (by simp [hp])).1]
  | rxhHold hp => simp [hp, (hc.receiving (by simp [hp])).1]
  | _ hp => rw [hp]; split <;> simp

/-! ### The result registers (R34) -/

theorem State.Inv.rspv_of_busy (hi : s.Inv) (hp : s.phase ≠ .idle) : s.rspv = false := by
  cases h : s.rspv
  · rfl
  · exact absurd (hi.response h) hp

/-- Settles O51: a rejection, a load, a tick of IDLE, the end of HOLD (`PhaseStep.result_cases`), or any other tick, in
which RSPV is 0 by the invariant. -/
theorem resultRegisterWrites : Obligations.ResultRegisterWrites := by
  intro s t hi h hr
  obtain ⟨u, hu, rfl⟩ := step_tickStep h hr
  simp only [State.passTick_rspv, State.passTick_errcode, State.passTick_rdata]
  cases hu with
  | reject cause ha he =>
    have hp := State.idle_of_accepts ha
    simp [hp, ha, he]
  | load c f ha hc he =>
    have hp := State.idle_of_accepts ha
    simp [hp, ha, he]
  | phase _ ha hu =>
    by_cases hp : s.phase = .idle
    · rw [hu.eq_of_idle hp]
      simp [hp, ha]
    · obtain ⟨hh, ht, hv, hec, hrd⟩ | ⟨hn, hv, hec, hrd⟩ := hu.result_cases hp
      · cases hread : s.isread <;> simp [hh, ht, ha, hv, hec, hrd, hread, readResult_eq]
      · rw [hv, hec, hrd, hi.rspv_of_busy hp]
        have no : ¬s.accepts = true := by simp [ha]
        exact ⟨⟨nofun, fun h => (h.elim hn fun h => no h.1).elim⟩, fun h h' => absurd ⟨h, h'⟩ hn,
          fun _ h => absurd h no, fun _ => rfl, fun h h' => absurd ⟨h, h'⟩ hn, fun _ => rfl⟩

/-! ### The sample of RXL (R183) -/

/-- The sample enters at the right, and the oldest of 16 bits leaves at the left (R32). -/
theorem shiftIn_eq (acc : DataWord) (d : Level) : shiftIn acc d = BitVec.ofNat 16 (2 * acc.toNat + d.toNat) := by
  apply BitVec.eq_of_toNat_eq
  have hd : d.toNat < 2 ^ 1 := d.toNat_lt
  have shifted : acc.toNat <<< 1 % 2 ^ 16 = 2 ^ 1 * (acc.toNat % 2 ^ 15) := by rw [Nat.shiftLeft_eq]; omega
  have hbit : ((BitVec.ofBool d).setWidth 16).toNat = d.toNat := by cases d <;> rfl
  rw [shiftIn, BitVec.toNat_or, BitVec.toNat_shiftLeft, shifted, hbit, ← Nat.two_pow_add_eq_or_of_lt hd, BitVec.toNat_ofNat]
  omega

/-- Settles O29: RXACC after the tick is `State.nextAcc`, whatever TIMER is. -/
theorem rxlTick : Obligations.RxlTick := by
  intro s hl hp hr
  have busy : s.phase ≠ .idle := by simp [hp]
  have h16 : s.cfg.tHalf - 1 < 65536 := by
    have := (Params.legal_durations hl).1
    omega
  have hacc : s.nextAcc = s.sample.rxacc := if_pos hp
  refine ⟨by simp [State.pins, hr, State.phasePins, hp], s.nextAcc, fun ht => ?_, fun ht => ?_, fun ht => ?_, fun ht => ?_⟩
  · rw [hacc, State.sample, if_pos ((timer_eq_iff h16).mpr ht), shiftIn_eq]
  · rw [hacc, State.sample, if_neg (mt (timer_eq_iff h16).mp ht)]
  · rw [step_busy hl busy hr, State.phaseTick_count busy ht]; rfl
  · rw [step_busy hl busy hr, State.phaseTick_rxl hp ht]; rfl

/-! ### What the strap cannot do (R26) -/

/-- Another input on the host's lines in this tick. -/
def State.withInput (x : HostInput) (s : State) : State := { s with host := x :: s.host.tail }

/-- The tick of a phase reads no input of the host. -/
theorem State.phaseTick_withInput (x : HostInput) (s : State) :
    (s.withInput x).phaseTick = s.phaseTick.withInput x := by
  have timed (g : State → State) (v : State) (hg : g (v.withInput x) = (g v).withInput x) :
      State.timed g (v.withInput x) = (State.timed g v).withInput x := by
    rw [State.timed, State.timed, apply_ite (State.withInput x), hg]
    rfl
  rw [State.phaseTick, State.phaseTick, show (s.withInput x).phase = s.phase from rfl]
  cases s.phase with
  | idle => rfl
  | setup => exact timed _ s (by simp only [apply_ite (State.withInput x)]; rfl)
  | txh => exact timed _ s (by simp only [apply_ite (State.withInput x)]; rfl)
  | rxl =>
    have sampled : (s.withInput x).sample = s.sample.withInput x := by
      rw [State.sample, State.sample, apply_ite (State.withInput x)]
      rfl
    show State.timed _ (s.withInput x).sample = _
    rw [sampled]
    exact timed _ _ rfl
  | rxh => exact timed _ s (by simp only [apply_ite (State.withInput x)]; rfl)
  | _ => exact timed _ s rfl

/-- Acceptance reads of the host's input only the transfer it is given. -/
theorem State.accept_withInput (x : HostInput) (op : BitVec 3) (a d : Operand) (s : State) :
    (s.withInput x).accept op a d = (s.accept op a d).withInput x := by
  rw [State.accept, State.accept, show (s.withInput x).cfg = s.cfg from rfl, show (s.withInput x).org = s.org from rfl]
  cases encode s.cfg.opcodes s.org op a d <;> rfl

theorem State.plainTick_of_no_reset (hr : (s.hostAt 0).rst = false) : s.plainTick = s.phaseTick.passTick := by
  rw [State.plainTick, if_neg (by simp [hr])]

/-- In a tick with `rst = 0` the strap's level is not read. -/
theorem step_withInput_org {x : HostInput} (hr : (s.hostAt 0).rst = false) (hx : x = { s.hostAt 0 with org := x.org }) :
    step (s.withInput x) = step s := by
  have hrx : x.rst = false := by rw [hx, hr]
  have hax : (s.withInput x).accepts = s.accepts := by rw [hx]; rfl
  cases hl : s.cfg.legal
  · rw [step_illegal hl, step_illegal (s := s.withInput x) hl]
  cases ha : s.accepts
  · rw [step_plain hl ha, step_plain (s := s.withInput x) hl (hax.trans ha), State.plainTick_of_no_reset hr,
      State.plainTick_of_no_reset (s := s.withInput x) hrx, State.phaseTick_withInput]
    rfl
  · rw [step_accepts hl ha, step_accepts (s := s.withInput x) hl (hax.trans ha), State.accept_withInput]
    rw [hx]
    rfl

/-- Settles O21: ORG by `step_reset` and `frameOfATick`; the strap by `step_withInput_org`. -/
theorem organizationIsLatchedByReset : Obligations.OrganizationIsLatchedByReset := by
  refine ⟨fun s t h => ⟨fun hr => ?_, fun hr => ?_⟩, fun s l hr => step_withInput_org hr rfl, fun o => by cases o <;> decide⟩
  · rw [step_reset h hr]; rfl
  · obtain ⟨-, -, -, -, hq⟩ := frameOfATick s t h
    exact (hq hr).1

/-! ### Acceptance and rejection (R151, R212) -/

/-- A ready CORE turns away an instruction of its organization that validation rejects. -/
theorem exec_rejected {i : Instr} {cause : Cause} (hr : s.cmdReady = true) (ho : s.org = i.org)
    (hv : validate i.org i.command i.addr i.data = some cause) : exec i s = .next (s.turnedAway cause.code) := by
  have he : encode s.cfg.opcodes s.org i.command.code i.addr i.data = .error cause := by
    simp only [encode, Command.ofCode_code, ho, hv]
  rw [exec_eq, State.commandTick, if_pos hr, State.accept, he]
  rfl

/-- The state after acceptance, in the fields R151 names. -/
theorem State.accepted_eq_started (s : State) (i : Instr) :
    s.accepted i = s.started (encodeInstr s.cfg.opcodes i).value (BitVec.ofNat 6 (frameBits i.org i.command))
      i.command.isRead (if i.command.isRead then BitVec.ofNat 5 s.org.wordWidth else 0) := rfl

theorem validate_address {org : Org} {c : Command} {a : Operand} (d : Operand) (hc : c.usesAddr = true)
    (ha : 2 ^ org.addrWidth ≤ a.toNat) : validate org c a d = some .address := by
  simp [validate, outOfRange, hc, fits, Nat.not_lt.mpr ha]

/-- A ready CORE takes a command with an address in range and no data; for a Read it has W samples to take (R151). -/
theorem exec_address_started {i : Instr} (hl : s.cfg.legal = true) (hr : s.cmdReady = true) (ho : s.org = i.org)
    (ha : i.command.usesAddr = true) (hd : i.command.usesData = false) (hfit : i.addr.toNat < 2 ^ i.org.addrWidth) :
    exec i s = .next (s.started
      ((1#1 ++ (s.cfg.opcodes.entry i.command).op ++ i.addr.setWidth i.org.addrWidth).setWidth 32)
      (BitVec.ofNat 6 (frameBits i.org i.command)) i.command.isRead
      (if i.command.isRead then BitVec.ofNat 5 i.org.wordWidth else 0)) := by
  have ht := ((Params.legal_iff _).mp hl).2.2.2
  have hw : i.wellFormed = true :=
    (wellFormed_iff i).mpr ((validate_eq_none _ _ _ _).mpr ⟨fun _ => hfit, fun h => by simp [hd] at h⟩)
  rw [exec_wellFormed hr ho hw, State.accepted_eq_started, ho, encodeInstr, packFrame_address ht i.org ha hd]

/-- Settles O38: both rows are commands with an address and no data. -/
theorem readIsAcceptedOrRejected : Obligations.ReadIsAcceptedOrRejected := by
  intro s a hl hr
  refine ⟨fun ho => ⟨fun ha => ?_, fun ha => ?_⟩, fun ho => ⟨fun ha => ?_, fun ha => ?_⟩⟩
  · exact exec_address_started (i := .readX16 a) hl hr ho rfl rfl ha
  · exact exec_rejected (i := .readX16 a) hr ho (validate_address (org := .sixteen) 0 rfl ha)
  · exact exec_address_started (i := .readX8 a) hl hr ho rfl rfl ha
  · exact exec_rejected (i := .readX8 a) hr ho (validate_address (org := .eight) 0 rfl ha)

/-- Settles O41: the tick is `State.reject`, which leaves PHASE in IDLE. -/
theorem rejectionHasNoBusActivity : Obligations.RejectionHasNoBusActivity := by
  intro s cause hl ha he
  have hp := State.idle_of_accepts ha
  refine ⟨State.pins_idle hp, ?_, State.pins_idle hp, rfl, rfl, rfl, fun hr => ?_⟩
  · rw [step_accepts hl ha, State.accept, he]
    rfl
  · exact (State.cmdReady_iff _).mpr ⟨hp, (congrArg HostInput.rst (s.hostAt_passTick 0)).trans hr⟩

/-- Settles O43: inside the window (`Runs.accepted`) every state is busy and holds the command. -/
theorem acceptedCommandHoldsTheBus : Obligations.AcceptedCommandHoldsTheBus := by
  intro s i hl hr ho hw hq
  refine ⟨s.accepted i, exec_wellFormed hr ho hw, fun j hj => ?_⟩
  obtain ⟨v, hv, hp, same⟩ := (Runs.accepted hl ho hq).inside j hj
  have busy : v.busy = true := by simp [State.busy, hp]
  exact ⟨v, hv, busy, by simp [State.cmdReady, busy], same.rspv, same.sr, same.org, same.rdata, same.errcode⟩

/-! ### The instruction a step runs (R21, R70) -/

theorem step_presented {i : Instr} (hl : s.cfg.legal = true) (hp : s.phase = .idle) (hr : (s.hostAt 0).rst = false)
    (hv : (s.hostAt 0).cmdValid = true)
    (hd : decodePort s.org (s.hostAt 0).cmdOp (s.hostAt 0).cmdAddr (s.hostAt 0).cmdData = .ok i) : step s = exec i s := by
  have ha := s.accepts_iff.mpr ⟨hp, hr, hv⟩
  rw [step, if_pos hl, State.presented, if_pos ha, hd]

theorem decodePort_transfer (i : Instr) :
    decodePort i.org i.transfer.cmdOp i.transfer.cmdAddr i.transfer.cmdData = .ok i :=
  (decodePort_code i.org i.command i.addr i.data).trans (congrArg _ (instrOf_fields i))

theorem step_transfer {i : Instr} (hl : s.cfg.legal = true) (hp : s.phase = .idle) (ho : s.org = i.org)
    (hi : s.hostAt 0 = i.transfer) : step s = exec i s := by
  refine step_presented hl hp ?_ ?_ ?_ <;> rw [hi]
  · rfl
  · rfl
  · rw [ho]; exact decodePort_transfer i

/-- Settles O17: `withFetchWord` presents the transfer of the instruction it reads. -/
theorem stepRunsThePresentedInstruction : Obligations.StepRunsThePresentedInstruction := by
  refine ⟨fun s i => step_presented, fun s i => step_transfer, fun s n w i hl hw => ?_⟩
  have e : s.withFetchWord n w = s.present i.org i.transfer := by
    rw [State.withFetchWord, State.presentWord, hw]
  rw [e]
  exact step_transfer (s := s.present i.org i.transfer) hl rfl rfl rfl

/-- Settles O18: the phase's tick does not touch the environment (`State.phaseTick_sameEnvironment`). -/
theorem stepWithoutAcceptance : Obligations.StepWithoutAcceptance := by
  intro s hl hr h
  have ha : s.accepts = false := by
    rw [← Bool.not_eq_true, s.accepts_iff]
    rintro ⟨hp, -, hv⟩
    exact h.elim (absurd hp) (by simp [hv])
  have env := s.phaseTick_sameEnvironment
  rw [step_plain hl ha, State.plainTick_of_no_reset hr, State.passTick, env.host, env.din, env.tick]

/-! ### The lines and the status views (R22, R25, R35, R36) -/

theorem State.pins_of_no_reset (hr : (s.hostAt 0).rst = false) : s.pins = s.phasePins := by
  rw [State.pins, if_neg (by simp [hr])]

/-- Settles O19: the rows of `State.phasePins`; in TXL and TXH the frame bit is one of SR. -/
theorem outputTable : Obligations.OutputTable := by
  intro s
  refine ⟨fun hr => if_pos hr, fun hr => ?_⟩
  rw [State.pins_of_no_reset hr]
  have bit (h1 : 1 ≤ s.bitcnt.toNat) (h2 : s.bitcnt.toNat ≤ 32) : s.frameBit = s.sr.getLsbD (s.bitcnt.toNat - 1) :=
    if_pos ⟨h1, h2⟩
  refine ⟨?_, ?_, ?_, ?_, ?_, ?_, ?_, ?_, ?_⟩ <;> intro hp <;> simp only [State.phasePins, hp]
  · rfl
  · intro h1 h2; rw [bit h1 h2]
  · intro h1 h2; rw [bit h1 h2]

/-- CS is high in every phase but IDLE (R36). -/
theorem State.phasePins_cs (s : State) : s.phasePins.cs = s.busy := by
  rw [State.phasePins, State.busy]
  cases s.phase <;> rfl

/-- Settles O20: ACT is CS in every row, and CS is high in every row but IDLE's. -/
theorem statusViews : Obligations.StatusViews := by
  intro s
  refine ⟨by simp [State.busy], by simp [State.cmdReady], s.pins_act, ?_, rfl, rfl, rfl⟩
  rw [← s.phasePins_cs, State.pins]
  cases (s.hostAt 0).rst <;> simp [Pins.low]

/-- Settles O50: the formula of `csHighTicks` at each command's clock pulses. -/
theorem durationTable : Obligations.DurationTable := by
  refine ⟨fun p => ⟨?_, ?_, rfl, rfl⟩, rfl, rfl, rfl, rfl, rfl, rfl⟩
  · rintro c (rfl | rfl | rfl | rfl) <;> exact ⟨rfl, rfl⟩
  · rintro c (rfl | rfl) <;> exact ⟨rfl, rfl⟩

end Machine

end Sys2Proof

/-! # Proofs about the device frame and the run of a command (`20_memory.md`) -/

namespace Sys2Proof

/-! ### Strings of levels (R53) -/

/-- The wire string begins with the frame's top bit (R53). -/
theorem Frame.wire_succ (v : FrameWord) (n : Nat) : Frame.wire ⟨v, n + 1⟩ = v.getLsbD n :: Frame.wire ⟨v, n⟩ := by
  simp only [Frame.wire, List.range_succ_eq_map, List.map_cons, List.map_map]
  congr 1
  refine List.map_congr_left fun k _ => ?_
  show v.getLsbD (n + 1 - 1 - (k + 1)) = v.getLsbD (n - 1 - k)
  congr 1
  omega

@[simp] theorem Frame.wire_length (f : Frame) : f.wire.length = f.bits := by simp [Frame.wire]

theorem wireValue_append_singleton (bits : List Level) (b : Level) :
    wireValue (bits ++ [b]) = 2 * wireValue bits + b.toNat := by
  simp [wireValue]

theorem wireValue_cons (b : Level) (bits : List Level) :
    wireValue (b :: bits) = 2 ^ bits.length * b.toNat + wireValue bits := by
  induction bits using List.reverseRecOn with
  | nil => simp [wireValue]
  | append_singleton bits c ih =>
    rw [← List.cons_append, wireValue_append_singleton, ih, wireValue_append_singleton, List.length_append,
      List.length_singleton, Nat.pow_succ]
    ring

/-- Reading a frame's wire string gives its low N bits back (R53). -/
theorem wireValue_wire (f : Frame) : wireValue f.wire = f.value.toNat % 2 ^ f.bits := by
  obtain ⟨v, n⟩ := f
  induction n with
  | zero => simp [Frame.wire, wireValue, Nat.mod_one]
  | succ n ih =>
    rw [Frame.wire_succ, wireValue_cons, Frame.wire_length, ih, Nat.mod_pow_succ, ← Nat.toNat_testBit,
      BitVec.testBit_toNat, Nat.add_comm]

/-! ### Bits at an offset of a frame (R83, R105) -/

theorem getLsbD_of_toNat_lt {w k i : Nat} {f : BitVec w} (hf : f.toNat < 2 ^ k) (hi : k ≤ i) : f.getLsbD i = false := by
  rw [← BitVec.testBit_toNat]
  exact Nat.testBit_lt_two_pow (hf.trans_le (Nat.pow_le_pow_right (by decide) hi))

/-- A mask of ones keeps the bits that stand where it does. -/
theorem and_onesAt {m : Nat} (x : BitVec m) (k : Nat) :
    (x.setWidth 32 <<< k) &&& ((BitVec.allOnes m).setWidth 32 <<< k) = x.setWidth 32 <<< k := by
  ext i hi
  by_cases h : i - k < m
  · by_cases hk : i < k <;> simp [h, hk]
  · simp [BitVec.getLsbD_of_ge x (i - k) (by omega)]

/-- Bits below an offset do not meet bits at it. -/
theorem and_shiftLeft_eq_zero {f : FrameWord} {k : Nat} (hf : f.toNat < 2 ^ k) (y : FrameWord) : f &&& (y <<< k) = 0 := by
  ext i hi
  by_cases h : i < k
  · simp [h]
  · simp [← BitVec.getLsbD_eq_getElem, getLsbD_of_toNat_lt hf (Nat.not_lt.mp h)]

/-- Bits at an offset tell what stands there. -/
theorem setWidth_shiftLeft_injective {m k : Nat} (h : m + k ≤ 32) {x y : BitVec m}
    (e : x.setWidth 32 <<< k = y.setWidth 32 <<< k) : x = y := by
  ext i hi
  have := congrArg (·.getLsbD (i + k)) e
  simpa [show i + k < 32 by omega, BitVec.getLsbD_eq_getElem hi] using this

theorem fieldOf_or (f g : FrameWord) (w : Nat) (off : Option Nat) :
    fieldOf (f ||| g) w off = fieldOf f w off ||| fieldOf g w off := by
  cases off with
  | none => simp [fieldOf]
  | some k => simp only [fieldOf, BitVec.ushiftRight_or_distrib, BitVec.setWidth_or]

/-- A field does not see what stands below it. -/
theorem fieldOf_of_lt {f : FrameWord} {w : Nat} {off : Option Nat} (hf : ∀ k ∈ off, f.toNat < 2 ^ k) :
    fieldOf f w off = 0 := by
  cases off with
  | none => rfl
  | some k =>
    ext i hi
    simp [fieldOf, getLsbD_of_toNat_lt (hf k rfl) (Nat.le_add_right k i)]

/-- A field does not see what stands above it. -/
theorem fieldOf_shiftLeft {w n : Nat} {off : Option Nat} (y : FrameWord) (hn : ∀ k ∈ off, w + k ≤ n) :
    fieldOf (y <<< n) w off = 0 := by
  cases off with
  | none => rfl
  | some k =>
    have := hn k rfl
    ext i hi
    by_cases h : i < w
    · simp [fieldOf, h, show k + i < n by omega]
    · simp [fieldOf, h]

/-- A field reads back the operand that fits it. -/
theorem fieldOf_fieldAt {v : Operand} {w : Nat} {off : Option Nat} (hv : off.isSome → v.toNat < 2 ^ w)
    (hn : ∀ k ∈ off, w + k ≤ 32) : fieldOf (fieldAt v w off) w off = if off.isSome then v else 0 := by
  cases off with
  | none => rfl
  | some k =>
    have := hn k rfl
    ext i hi
    by_cases h : i < w
    · simp [fieldOf, fieldAt, h, show k + i < 32 by omega, BitVec.getLsbD_eq_getElem hi]
    · simp [fieldOf, h, ← BitVec.getLsbD_eq_getElem, getLsbD_of_toNat_lt (hv rfl) (Nat.not_lt.mp h)]

/-! ### Rows (R75, R76, R83) -/

section Rows

variable {t : OpcodeTable}

/-- The offset of a row's opcode bits, EXT included where the row has one (R76). -/
def headOff (t : OpcodeTable) (org : Org) (c : Command) : Nat :=
  frameBits org c - (if (t.entry c).ext.isSome then 5 else 3)

/-- A row without EXT compares S and OP. -/
theorem layout_plain (org : Org) {c : Command} (hx : (t.entry c).ext = none) :
    (layout t org c).pattern = ((t.entry c).start ++ (t.entry c).op).setWidth 32 <<< headOff t org c ∧
      (layout t org c).mask = (BitVec.allOnes 3).setWidth 32 <<< headOff t org c := by
  simp only [layout, headOff, hx]
  exact ⟨rfl, rfl⟩

/-- A row with EXT compares S, OP and EXT. -/
theorem layout_extended (org : Org) {c : Command} {x : BitVec 2} (hx : (t.entry c).ext = some x) :
    (layout t org c).pattern = ((t.entry c).start ++ (t.entry c).op ++ x).setWidth 32 <<< headOff t org c ∧
      (layout t org c).mask = (BitVec.allOnes 5).setWidth 32 <<< headOff t org c := by
  have := Machine.frameBits_range org c
  have hk : frameBits org c - 3 = 2 + (frameBits org c - 5) := by omega
  simp only [layout, headOff, hx, hk, Option.isSome_some, if_true, BitVec.shiftLeft_add, ← BitVec.shiftLeft_or_distrib]
  exact ⟨by rw [setWidth_append (_ ++ _) x], rfl⟩

/-- The bits a row compares stand at its opcode bits, and their mask covers them. -/
theorem layout_head (t : OpcodeTable) (org : Org) (c : Command) :
    ∃ x y : FrameWord, (layout t org c).pattern = x <<< headOff t org c ∧ (layout t org c).mask = y <<< headOff t org c ∧
      (layout t org c).pattern &&& (layout t org c).mask = (layout t org c).pattern := by
  cases hx : (t.entry c).ext with
  | none =>
    obtain ⟨hp, hm⟩ := layout_plain org hx
    exact ⟨_, _, hp, hm, by rw [hp, hm, and_onesAt]⟩
  | some x =>
    obtain ⟨hp, hm⟩ := layout_extended org hx
    exact ⟨_, _, hp, hm, by rw [hp, hm, and_onesAt]⟩

/-- In a legal table the address field ends below the opcode bits. -/
theorem addrOff_le_headOff (ht : t.legal = true) (org : Org) (c : Command) :
    ∀ k ∈ (layout t org c).addrOff, org.addrWidth + k ≤ headOff t org c := by
  obtain ⟨-, hx, -⟩ := t.legal_iff.mp ht
  intro k hk
  obtain ⟨ha, rfl⟩ : c.usesAddr = true ∧ (if c.usesData then org.wordWidth else 0) = k := by simpa [layout] using hk
  have plain : (t.entry c).ext.isSome = false := by rw [hx, ha]; rfl
  rw [headOff, frameBits, plain]
  exact (by omega : ∀ a w : Nat, a + w ≤ 3 + a + w - 3) _ _

theorem dataOff_le_headOff (t : OpcodeTable) (org : Org) (c : Command) :
    ∀ k ∈ (layout t org c).dataOff, org.wordWidth + k ≤ headOff t org c := by
  intro k hk
  obtain ⟨hd, rfl⟩ : c.usesData = true ∧ 0 = k := by simpa [layout] using hk
  have : 6 ≤ org.addrWidth := by cases org <;> decide
  rw [headOff, frameBits, if_pos hd]
  split <;> omega

/-- The opcode bits of a packed frame are its row's (R83). -/
theorem packFrame_and_mask (ht : t.legal = true) (org : Org) (c : Command) (a d : Operand) :
    (packFrame t org c a d).value &&& (layout t org c).mask = (layout t org c).pattern := by
  obtain ⟨x, y, -, hm, hp⟩ := layout_head t org c
  have ha := and_shiftLeft_eq_zero (fieldAt_lt a (addrOff_le_headOff ht org c)) y
  have hd := and_shiftLeft_eq_zero (fieldAt_lt d (dataOff_le_headOff t org c)) y
  rw [← hm] at ha hd
  simp [packFrame, BitVec.and_or_distrib_right, ha, hd, hp]

/-- The data field ends where the address field begins (R74). -/
theorem dataOff_le_addrOff (t : OpcodeTable) (org : Org) (c : Command) :
    ∀ k ∈ (layout t org c).dataOff, ∀ n ∈ (layout t org c).addrOff, org.wordWidth + k ≤ n := by
  cases c <;> simp [layout, Command.usesAddr, Command.usesData]

theorem headOff_le (t : OpcodeTable) (org : Org) (c : Command) : headOff t org c ≤ 32 :=
  (Nat.sub_le _ _).trans ((Machine.frameBits_range org c).2.trans (by decide))

/-- The address operand is read back from its field (R83). -/
theorem packFrame_addrField (ht : t.legal = true) (org : Org) (c : Command) (a d : Operand)
    (ha : c.usesAddr = true → a.toNat < 2 ^ org.addrWidth) :
    fieldOf (packFrame t org c a d).value org.addrWidth (layout t org c).addrOff = if c.usesAddr then a else 0 := by
  obtain ⟨x, -, hp, -⟩ := layout_head t org c
  have above := addrOff_le_headOff ht org c
  have isSome : (layout t org c).addrOff.isSome = c.usesAddr := by cases c <;> rfl
  have data : fieldOf (fieldAt d org.wordWidth (layout t org c).dataOff) org.addrWidth (layout t org c).addrOff = 0 :=
    fieldOf_of_lt fun n hn => fieldAt_lt d fun k hk => dataOff_le_addrOff t org c k hk n hn
  rw [packFrame, fieldOf_or, fieldOf_or, hp, fieldOf_shiftLeft x above, data,
    fieldOf_fieldAt (isSome ▸ ha) fun k hk => (above k hk).trans (headOff_le t org c), isSome]
  simp

/-- The data operand is read back from its field (R83). -/
theorem packFrame_dataField (t : OpcodeTable) (org : Org) (c : Command) (a d : Operand)
    (hd : c.usesData = true → d.toNat < 2 ^ org.wordWidth) :
    fieldOf (packFrame t org c a d).value org.wordWidth (layout t org c).dataOff = if c.usesData then d else 0 := by
  obtain ⟨x, -, hp, -⟩ := layout_head t org c
  have above := dataOff_le_headOff t org c
  have isSome : (layout t org c).dataOff.isSome = c.usesData := by cases c <;> rfl
  have addr : fieldOf (fieldAt a org.addrWidth (layout t org c).addrOff) org.wordWidth (layout t org c).dataOff = 0 := by
    have below := dataOff_le_addrOff t org c
    cases hn : (layout t org c).addrOff with
    | none => exact fieldOf_of_lt fun k _ => Nat.two_pow_pos k
    | some n => exact fieldOf_shiftLeft _ fun k hk => below k hk n hn
  rw [packFrame, fieldOf_or, fieldOf_or, hp, fieldOf_shiftLeft x above, addr,
    fieldOf_fieldAt (isSome ▸ hd) fun k hk => (above k hk).trans (headOff_le t org c), isSome]
  simp

/-- A mask of the start bit and OP of an `n`-bit frame. -/
def opMask (n : Nat) : FrameWord := (BitVec.allOnes 3).setWidth 32 <<< (n - 3)

/-- The start bit and OP of a row's pattern, with or without EXT below them. -/
theorem layout_opBits (t : OpcodeTable) (org : Org) (c : Command) :
    (layout t org c).pattern &&& opMask (frameBits org c) =
        ((t.entry c).start ++ (t.entry c).op).setWidth 32 <<< (frameBits org c - 3) ∧
      (layout t org c).mask &&& opMask (frameBits org c) = opMask (frameBits org c) := by
  have := Machine.frameBits_range org c
  have ext (x : BitVec 2) : x.setWidth 32 <<< (frameBits org c - 5) &&& opMask (frameBits org c) = 0 :=
    and_shiftLeft_eq_zero (setWidth_shiftLeft_lt x (by omega)) _
  have ones : 0b111#32 <<< (frameBits org c - 3) = opMask (frameBits org c) := rfl
  have op := and_onesAt ((t.entry c).start ++ (t.entry c).op) (frameBits org c - 3)
  rw [← opMask] at op
  simp only [layout, ones]
  cases (t.entry c).ext with
  | none => exact ⟨op, BitVec.and_self⟩
  | some x =>
    have extMask : 0b11#32 <<< (frameBits org c - 5) &&& opMask (frameBits org c) = 0 := ext (BitVec.allOnes 2)
    simp [BitVec.and_or_distrib_right, op, ext x, extMask]

/-- The command that stands for those that share its OP: the four without an address share WriteDisable's (R6). -/
def Command.opGroup (c : Command) : Command := if c.usesAddr then c else .writeDisable

theorem Command.usesAddr_opGroup (c : Command) : c.opGroup.usesAddr = c.usesAddr := by cases c <;> rfl

/-- OP tells the groups of a legal table apart (R6, R75). -/
theorem OpcodeTable.opGroup_eq_of_op (ht : t.legal = true) {c c' : Command} (hop : (t.entry c).op = (t.entry c').op) :
    c.opGroup = c'.opGroup := by
  obtain ⟨-, -, -, ⟨h1, h2, h3⟩, -, hops⟩ := t.legal_iff.mp ht
  have shared (c : Command) : (t.entry c.opGroup).op = (t.entry c).op := by
    cases c with
    | writeAll => exact h1.symm
    | eraseAll => exact h2.symm
    | writeEnable => exact h3.symm
    | _ => rfl
  have listed (c : Command) : c.opGroup ∈ [Command.writeDisable, .write, .read, .erase] := by cases c <;> decide
  rw [← shared c, ← shared c'] at hop
  exact List.inj_on_of_nodup_map (f := fun c => (t.entry c).op)
    (l := [.writeDisable, .write, .read, .erase]) hops (listed c) (listed c') hop

theorem OpcodeTable.ext_isSome_of_op (ht : t.legal = true) {c c' : Command} (hop : (t.entry c).op = (t.entry c').op) :
    (t.entry c).ext.isSome = (t.entry c').ext.isSome := by
  obtain ⟨-, hx, -⟩ := t.legal_iff.mp ht
  rw [hx, hx, ← c.usesAddr_opGroup, OpcodeTable.opGroup_eq_of_op ht hop, c'.usesAddr_opGroup]

/-- OP and EXT tell the commands of a legal table apart (R6, R75). -/
theorem OpcodeTable.entry_injective (ht : t.legal = true) {c c' : Command} (hop : (t.entry c).op = (t.entry c').op)
    (hext : (t.entry c).ext = (t.entry c').ext) : c = c' := by
  obtain ⟨-, -, -, -, hexts, -⟩ := t.legal_iff.mp ht
  have group := OpcodeTable.opGroup_eq_of_op ht hop
  have same : c.usesAddr = c'.usesAddr := by rw [← c.usesAddr_opGroup, group, c'.usesAddr_opGroup]
  cases ha : c.usesAddr with
  | true => simpa [Command.opGroup, ha, ← same] using group
  | false =>
    have listed (c : Command) (h : c.usesAddr = false) :
        c ∈ [Command.writeDisable, .writeAll, .eraseAll, .writeEnable] := by
      revert h; cases c <;> decide
    exact List.inj_on_of_nodup_map (f := fun c => (t.entry c).ext)
      (l := [.writeDisable, .writeAll, .eraseAll, .writeEnable]) hexts (listed c ha) (listed c' (same ▸ ha)) hext

/-- A frame that matches a row under its mask has the row's start bit and OP. -/
theorem and_opMask_of_match {org : Org} {c : Command} {f : FrameWord}
    (hf : f &&& (layout t org c).mask = (layout t org c).pattern) :
    f &&& opMask (frameBits org c) = ((t.entry c).start ++ (t.entry c).op).setWidth 32 <<< (frameBits org c - 3) := by
  obtain ⟨op, mask⟩ := layout_opBits t org c
  rw [← mask, ← BitVec.and_assoc, hf, op]

/-- Two rows of one length match one frame only if they are one row: OP tells whether EXT follows, and then EXT tells
the command (R83). -/
theorem eq_of_match (ht : t.legal = true) {org : Org} {c c' : Command} {f : FrameWord}
    (hN : frameBits org c' = frameBits org c) (hf : f &&& (layout t org c).mask = (layout t org c).pattern)
    (hf' : f &&& (layout t org c').mask = (layout t org c').pattern) : c' = c := by
  have hn := Machine.frameBits_range org c
  have top := and_opMask_of_match hf'
  rw [hN, and_opMask_of_match hf] at top
  have hop : (t.entry c).op = (t.entry c').op := by
    have := congrArg (BitVec.setWidth 2) (setWidth_shiftLeft_injective (by omega) top)
    rwa [BitVec.setWidth_append_eq_right, BitVec.setWidth_append_eq_right] at this
  have hsome := OpcodeTable.ext_isSome_of_op ht hop
  have hoff : headOff t org c' = headOff t org c := by rw [headOff, headOff, hN, hsome]
  refine (OpcodeTable.entry_injective ht hop ?_).symm
  cases hx : (t.entry c).ext with
  | none => exact (by simpa [hx] using hsome : (t.entry c').ext = none).symm
  | some x =>
    obtain ⟨x', hx'⟩ := Option.isSome_iff_exists.mp (hsome ▸ hx ▸ rfl : (t.entry c').ext.isSome = true)
    obtain ⟨hp, hm⟩ := layout_extended org hx
    obtain ⟨hp', hm'⟩ := layout_extended org hx'
    rw [hm, hp] at hf
    rw [hm', hp', hoff, hf] at hf'
    have := congrArg (BitVec.setWidth 2) (setWidth_shiftLeft_injective (by rw [headOff, hx]; omega) hf')
    rw [BitVec.setWidth_append_eq_right, BitVec.setWidth_append_eq_right] at this
    rw [hx', this]

theorem find?_eq_some_of_unique {α : Type} {p : α → Bool} {l : List α} {a : α} (ha : a ∈ l)
    (hp : ∀ b, p b = true ↔ b = a) : l.find? p = some a := by
  cases h : l.find? p with
  | none => exact absurd ((hp a).mpr rfl) (List.find?_eq_none.mp h a ha)
  | some b => rw [(hp b).mp (List.find?_some h)]

/-- The decoder finds the row of a packed frame. -/
theorem find?_matchesRow (ht : t.legal = true) (org : Org) (c : Command) (a d : Operand) :
    Command.all.find? (matchesRow t org (frameBits org c) (packFrame t org c a d).value) = some c := by
  have own := packFrame_and_mask ht org c a d
  refine find?_eq_some_of_unique (by cases c <;> decide) fun c' => ?_
  rw [matchesRow, Bool.and_eq_true, beq_iff_eq, beq_iff_eq]
  constructor
  · rintro ⟨hN, hc'⟩
    exact eq_of_match ht hN own hc'
  · rintro rfl
    exact ⟨rfl, own⟩

theorem instrOf_ignores (org : Org) (c : Command) (a d : Operand) :
    instrOf org c (if c.usesAddr then a else 0) (if c.usesData then d else 0) = instrOf org c a d := by
  cases org <;> cases c <;> rfl

/-- The decoder reads a well-formed instruction back from its frame (R83, R113(d)). -/
theorem decodeFrame_encodeInstr (ht : t.legal = true) {i : Instr} (hw : i.wellFormed = true) :
    decodeFrame t i.org (frameBits i.org i.command) (encodeInstr t i).value = .ok i := by
  obtain ⟨ha, hd⟩ := (Machine.validate_eq_none _ _ _ _).mp ((Machine.wellFormed_iff i).mp hw)
  have fits : ¬2 ^ frameBits i.org i.command ≤ (encodeInstr t i).value.toNat :=
    Nat.not_le.mpr (Machine.packFrame_value_lt _ _ _ _ _)
  have known : ¬Command.all.all (fun c => frameBits i.org c != frameBits i.org i.command) = true := by
    rw [Command.all_all_iff]
    intro h
    simpa using h i.command
  rw [decodeFrame, if_neg fits, if_neg known, encodeInstr, find?_matchesRow ht]
  simp only [readRow, packFrame_addrField ht _ _ _ _ ha, packFrame_dataField _ _ _ _ _ hd, instrOf_ignores,
    instrOf_fields]

end Rows

/-- Settles O3: the wire string's value is the frame's (`wireValue_wire`), which decodes (`decodeFrame_encodeInstr`). -/
theorem wireStringsRoundTrip : Obligations.WireStringsRoundTrip := by
  intro t i ht hw
  obtain ⟨-, hlen⟩ := Laws.FrameLength.of i t
  have short : ¬32 < frameBits i.org i.command := by
    have := Machine.frameBits_range i.org i.command
    omega
  have value : wireValue (encodeInstr t i).wire = (encodeInstr t i).value.toNat :=
    (wireValue_wire _).trans (Nat.mod_eq_of_lt (Machine.packFrame_value_lt _ _ _ _ _))
  refine ⟨hlen, ?_⟩
  rw [decodeWire, hlen, if_neg short, value, BitVec.ofNat_toNat, BitVec.setWidth_eq]
  exact decodeFrame_encodeInstr ht hw

namespace Machine

/-! ### The samples of a Read (R180, R183, R185) -/

theorem accumulate_append_singleton (w : Nat) (bits : List Level) (b : Level) :
    accumulate w (bits ++ [b]) = (accumulate w bits <<< 1) ||| (BitVec.ofBool b).setWidth w := by
  simp [accumulate]

/-- An accumulator of `w` bits is the low part of a wider one. -/
theorem setWidth_accumulate {w n : Nat} (hw : w ≤ n) (bits : List Level) :
    (accumulate n bits).setWidth w = accumulate w bits := by
  induction bits using List.reverseRecOn with
  | nil => simp [accumulate]
  | append_singleton bits b ih =>
    rw [accumulate_append_singleton, accumulate_append_singleton, BitVec.setWidth_or, ← ih,
      BitVec.setWidth_shiftLeft_of_le hw, BitVec.setWidth_setWidth_of_le _ hw]

/-- RXACC after `k` samples holds them and nothing above (R183). -/
theorem accumulate_toNat_lt (bits : List Level) : (accumulate 16 bits).toNat < 2 ^ bits.length := by
  induction bits using List.reverseRecOn with
  | nil => decide
  | append_singleton bits b ih =>
    have := b.toNat_lt
    rw [accumulate_append_singleton]
    show (shiftIn _ b).toNat < _
    rw [shiftIn_eq, BitVec.toNat_ofNat, List.length_append, List.length_singleton, Nat.pow_succ]
    exact (Nat.mod_le _ _).trans_lt (by omega)

/-- The accumulator of the data cycles folds the samples in, `2·T_HALF` ticks apart (R183). -/
theorem State.accFrom_eq_foldl (s : State) (t r : Nat) (acc : DataWord) :
    s.accFrom t acc r = ((List.range r).map fun k => s.dinAt (t + 2 * k * s.cfg.tHalf)).foldl shiftIn acc := by
  induction r generalizing t acc with
  | zero => rfl
  | succ r ih =>
    rw [State.accFrom, ih, List.range_succ_eq_map, List.map_cons, List.map_map, List.foldl_cons]
    congr 1
    · simp
    · refine List.map_congr_left fun k _ => congrArg s.dinAt ?_
      rw [Nat.succ_eq_add_one]
      ring

/-- A Read's last sample leaves the accumulation of R180 in RXACC. -/
theorem State.finalAcc_eq (s : State) (i : Instr) :
    s.finalAcc i = if i.command.isRead then accumulate 16 s.samples else 0 := by
  rw [State.finalAcc]
  split
  · rename_i hrd
    have hread : i.command = .read := i.command.isRead_iff.mp hrd
    rw [State.accFrom_eq_foldl, State.samples, hread]
    show _ = List.foldl shiftIn 0 _
    congr 1
    refine List.map_congr_left fun k _ => ?_
    rw [State.dinAt_of_passed (s := s) (n := 1) (by simp [State.accepted]) (by simp [State.accepted]), sampleTick]
    congr 1
    show 1 + (s.cfg.tSetup + 2 * (frameBits s.org .read + 1) * s.cfg.tHalf + 2 * k * s.cfg.tHalf) = _
    ring
  · rfl

/-- R185 on the accumulation of R180: the result is the W-bit word. -/
theorem readResult_accumulate (o : Org) (bits : List Level) :
    readResult o (accumulate 16 bits) = (accumulate o.wordWidth bits).setWidth 16 := by
  rw [readResult, setWidth_accumulate o.wordWidth_range.2]

/-- W samples fit the W bits of the result. -/
theorem readResult_samples (s : State) : readResult s.org (accumulate 16 s.samples) = accumulate 16 s.samples := by
  have fits := accumulate_toNat_lt s.samples
  rw [show s.samples.length = s.org.wordWidth by simp [State.samples]] at fits
  exact BitVec.eq_of_toNat_eq (by rw [readResult_toNat, Nat.mod_eq_of_lt fits])

theorem accumulate_samples (s : State) :
    accumulate 16 s.samples = (accumulate s.org.wordWidth s.samples).setWidth 16 := by
  rw [← readResult_accumulate, readResult_samples]

/-- The response, in the fields R153 names. -/
theorem State.responded_passTicks (s : State) (k : Nat) (acc : DataWord) :
    (s.passTicks k).responded 0 0 acc =
      s.finished k acc (if s.isread then readResult s.org acc else s.rdata) := rfl

/-- Settles O42: the run over the window (`Runs.accepted`) ends in the response, with the W samples of a Read in RXACC
and RDATA. -/
theorem commandsRunToTheirResponse : Obligations.CommandsRunToTheirResponse := by
  intro s i hl hr ho hw hq
  refine ⟨s.accepted i, exec_wellFormed hr ho hw, ?_, rfl, rfl, rfl, rfl⟩
  have window := (Runs.accepted hl ho hq).run
  have result (acc : DataWord) : (if (s.accepted i).isread then readResult (s.accepted i).org acc
      else (s.accepted i).rdata) = if i.command.isRead then readResult s.org acc else s.rdata := rfl
  rw [State.responded_passTicks, s.finalAcc_eq, result] at window
  simp only [← Command.isRead_iff]
  refine window.trans ?_
  cases i.command.isRead
  · rfl
  · rw [if_pos rfl, if_pos rfl, readResult_samples, accumulate_samples]
    rfl

/-! ### The rising edges of CLK (R131, R136, R187) -/

/-- A level held for one tick or more has at most one rising edge, at its beginning. -/
theorem doutAtEdges_replicate {h : Nat} (hh : 1 ≤ h) (clk : Level) (v : Pins) (ps : List Pins) :
    doutAtEdges clk (List.replicate h v ++ ps) = (if !clk && v.clk then [v.dout] else []) ++ doutAtEdges v.clk ps := by
  induction h, hh using Nat.le_induction generalizing clk with
  | base => rfl
  | succ h _ ih =>
    rw [List.replicate_succ, List.cons_append, doutAtEdges, ih]
    simp

/-- The edges of the frame bits carry its wire string, most significant bit first (R136). -/
theorem doutAtEdges_bitPins {h : Nat} (hh : 1 ≤ h) (sr : FrameWord) (b : Nat) {ps : List Pins} {rest : List Level}
    (hps : ∀ clk, doutAtEdges clk ps = rest) (clk : Level) :
    doutAtEdges clk (bitPins h sr b ++ ps) = Frame.wire ⟨sr, b⟩ ++ rest := by
  induction b generalizing clk with
  | zero => simpa [bitPins, Frame.wire] using hps clk
  | succ b ih =>
    rw [bitPins, Frame.wire_succ, List.append_assoc, List.append_assoc, doutAtEdges_replicate hh,
      doutAtEdges_replicate hh, ih]
    simp

/-- Each cycle after the frame bits has one edge, with DOUT low (R182, R184). -/
theorem doutAtEdges_cyclePins {h : Nat} (hh : 1 ≤ h) (r : Nat) {ps : List Pins} {rest : List Level}
    (hps : ∀ clk, doutAtEdges clk ps = rest) (clk : Level) :
    doutAtEdges clk (cyclePins h r ++ ps) = List.replicate r false ++ rest := by
  induction r generalizing clk with
  | zero => simpa [cyclePins] using hps clk
  | succ r ih =>
    rw [cyclePins, List.append_assoc, List.append_assoc, doutAtEdges_replicate hh, doutAtEdges_replicate hh, ih]
    simp [List.replicate_succ]

/-- The edges of a window: one for each frame bit, and one for each cycle after them. -/
theorem doutAtEdges_windowPins {p : Params} (hl : p.legal = true) (f : Frame) (cycles : Nat) :
    doutAtEdges false (windowPins p f.value f.bits cycles) = f.wire ++ List.replicate cycles false := by
  obtain ⟨⟨hh, -⟩, ⟨hs, -⟩, ⟨ho, -⟩⟩ := Params.legal_durations hl
  have hold (clk : Level) : doutAtEdges clk (List.replicate p.tHold ⟨true, true, false, false⟩) = [] := by
    simpa [doutAtEdges] using doutAtEdges_replicate ho clk ⟨true, true, false, false⟩ []
  have cyclesEdges := doutAtEdges_cyclePins hh cycles hold
  rw [windowPins, doutAtEdges_replicate hs, doutAtEdges_bitPins hh f.value f.bits cyclesEdges]
  simp

/-- Settles O47: the lines of the window are `windowPins` (`Runs.accepted`), whose edges are read off segment by
segment. -/
theorem clockEdgesCarryTheFrame : Obligations.ClockEdgesCarryTheFrame := by
  intro s i hl hr ho hw hq
  refine ⟨s.accepted i, exec_wellFormed hr ho hw, ?_⟩
  have hN : frameBits s.org i.command = (encodeInstr s.cfg.opcodes i).bits := by rw [ho]; rfl
  rw [(Runs.accepted hl ho hq).pins, hN, doutAtEdges_windowPins hl, tailCycles]
  simp only [Command.isRead_iff]
  split <;> rfl

/-! ### The ticks a command in progress has left (R57, R152, R153) -/

/-- The halves of CLK cycles that follow a phase with `bits` frame bits and `samples` samples to go, where `rd` says that
the command is a Read: after its frame bits a Read has the dummy cycle and a data cycle for each sample (R182 to R184). -/
def Phase.halvesAfter (bits : Nat) (rd : Bool) (samples : Nat) : Phase → Nat
  | .idle | .hold => 0
  | .setup => 2 * (bits + if rd then 1 + samples else 0)
  | .txl => 2 * (bits + if rd then 1 + samples else 0) - 1
  | .txh => 2 * (bits + if rd then 1 + samples else 0) - 2
  | .dml => 2 * samples + 1
  | .dmh => 2 * samples
  | .rxl => 2 * samples - 1
  | .rxh => 2 * samples - 2

def State.halvesAfter (s : State) : Nat := s.phase.halvesAfter s.bitcnt.toNat s.isread s.rxcnt.toNat

theorem State.halvesAfter_of_phase {s : State} {p : Phase} (hp : s.phase = p) :
    s.halvesAfter = p.halvesAfter s.bitcnt.toNat s.isread s.rxcnt.toNat := hp ▸ rfl

/-- The phases that are one half of a CLK cycle, and last T_HALF (R28). -/
def Phase.isHalf : Phase → Bool
  | .txl | .txh | .dml | .dmh | .rxl | .rxh => true
  | .idle | .setup | .hold => false

/-- The ticks from the end of the present phase to the response: the halves that follow it, and HOLD. -/
def State.ticksAfter (s : State) : Nat :=
  if s.phase = .hold then 0 else s.halvesAfter * s.cfg.tHalf + s.cfg.tHold

/-- The ticks from now to the response of the command in progress. -/
def State.ticksLeft (s : State) : Nat := if s.phase = .idle then 0 else s.timer.toNat + 1 + s.ticksAfter

variable {s t u : State}

theorem Phase.isHalf_iff (ph : Phase) : ph.isHalf = true ↔ ph ≠ .idle ∧ ph ≠ .setup ∧ ph ≠ .hold := by
  cases ph <;> decide

theorem Phase.duration_of_isHalf (p : Params) : ∀ {ph : Phase}, ph.isHalf = true → ph.duration p = p.tHalf
  | .txl, _ | .txh, _ | .dml, _ | .dmh, _ | .rxl, _ | .rxh, _ => rfl

theorem State.ticksLeft_busy (hp : s.phase ≠ .idle) : s.ticksLeft = s.timer.toNat + 1 + s.ticksAfter := if_neg hp

/-- At the entry of a phase its whole duration is to go. -/
theorem State.ticksLeft_entered (hl : s.cfg.legal = true) (hp : s.phase ≠ .idle)
    (ht : s.timer.toNat = s.phase.duration s.cfg - 1) : s.ticksLeft = s.phase.duration s.cfg + s.ticksAfter := by
  have := Phase.duration_range hl hp
  rw [State.ticksLeft_busy hp]
  omega

/-- What the end of a phase does to the halves to come: one less follows, and HOLD follows the last. -/
def HalfSpent (s u : State) : Prop :=
  (u.phase = .hold ∧ s.halvesAfter = 0) ∨ (u.phase.isHalf = true ∧ s.halvesAfter = u.halvesAfter + 1)

theorem HalfSpent.enter {v : State} {p q : Phase} {d : Nat} (hp : s.phase = p) (hq : q.isHalf = true)
    (h : p.halvesAfter s.bitcnt.toNat s.isread s.rxcnt.toNat =
      q.halvesAfter v.bitcnt.toNat v.isread v.rxcnt.toNat + 1) : HalfSpent s (v.enter q d) :=
  .inr ⟨hq, by rw [State.halvesAfter_of_phase hp, h]; rfl⟩

/-- The counters go down with the halves: BITCNT and RXCNT are 1 or more where they are counted (R39). -/
theorem PhaseStep.halfSpent (h : PhaseStep s u) (hc : s.HoldsCommand) (hi : s.phase ≠ .idle) (hh : s.phase ≠ .hold)
    (ht : s.timer = 0) : HalfSpent s u := by
  have bitsLeft (hp : s.phase = .txl ∨ s.phase = .txh) : 1 ≤ s.bitcnt.toNat := by
    obtain ⟨-, -, -, f, -, hb, -⟩ := hc.frame
    exact (hb hp).1
  have samplesLeft (hp : s.phase = .rxl ∨ s.phase = .rxh) : 1 ≤ s.rxcnt.toNat := (hc.samplesLeft hp).1
  have hcu := h.holdsCommand hc
  cases h with
  | idle hp => exact absurd hp hi
  | count _ ht' => simp [ht] at ht'
  | hold hp => exact absurd hp hh
  | setupBits hp _ hb =>
    have : 1 ≤ s.bitcnt.toNat := by bv_omega
    exact .enter hp rfl (by simp only [Phase.halvesAfter]; omega)
  | setupDummy hp _ hb => exact absurd hb (hc.bitsToSend hp)
  | setupHold hp _ hb => exact absurd hb (hc.bitsToSend hp)
  | txl hp =>
    have := bitsLeft (.inl hp)
    exact .enter hp rfl (by simp only [Phase.halvesAfter]; omega)
  | txhNext hp _ hb =>
    have := bitsLeft (.inr hp)
    have sent : s.bitcnt.toNat = (s.bitcnt - 1).toNat + 1 ∧ 1 ≤ (s.bitcnt - 1).toNat := by bv_omega
    exact .enter hp rfl (by simp only [Phase.halvesAfter]; omega)
  | txhDummy hp _ hb hr =>
    refine .enter hp rfl ?_
    rw [hb, hr]
    show 2 * (1 + (1 + s.rxcnt.toNat)) - 2 = 2 * s.rxcnt.toNat + 1 + 1
    omega
  | txhHold hp _ hb hr => exact .inl ⟨rfl, by rw [State.halvesAfter_of_phase hp, hb, hr]; rfl⟩
  | dml hp => exact .enter hp rfl rfl
  | dmh hp =>
    have : 1 ≤ s.rxcnt.toNat := (hcu.samplesLeft (.inl rfl)).1
    exact .enter hp rfl (by simp only [Phase.halvesAfter]; omega)
  | rxl hp =>
    have := samplesLeft (.inl hp)
    exact .enter hp rfl (by simp only [Phase.halvesAfter]; omega)
  | rxhNext hp _ hb =>
    have := samplesLeft (.inr hp)
    have taken : s.rxcnt.toNat = (s.rxcnt - 1).toNat + 1 ∧ 1 ≤ (s.rxcnt - 1).toNat := by bv_omega
    exact .enter hp rfl (by simp only [Phase.halvesAfter]; omega)
  | rxhHold hp _ hb => exact .inl ⟨rfl, by rw [State.halvesAfter_of_phase hp, hb]; rfl⟩

theorem PhaseStep.idle_of_hold (h : PhaseStep s u) (hp : s.phase = .hold) (ht : s.timer = 0) : u.phase = .idle := by
  cases h with
  | hold => rfl
  | count _ ht' => simp [ht] at ht'
  | idle hp' => exact hp'
  | _ hp' => rw [hp] at hp'; cases hp'

/-- Only the end of HOLD leads a command back to IDLE, and it responds (R153). -/
theorem PhaseStep.responds_of_idle (h : PhaseStep s u) (hp : s.phase ≠ .idle) (hu : u.phase = .idle) :
    u.rspv = true ∧ u.errcode = 0 := by
  cases h with
  | hold => exact ⟨rfl, rfl⟩
  | count => exact absurd hu hp
  | idle hp' => exact absurd hp' hp
  | _ => cases hu

/-- The end of a phase leaves exactly the ticks after it. -/
theorem PhaseStep.ticksLeft_eq_ticksAfter (h : PhaseStep s u) (hi : s.Inv) (hp : s.phase ≠ .idle) (ht : s.timer = 0) :
    u.ticksLeft = s.ticksAfter := by
  have env := h.sameEnvironment
  have entered (hu : u.phase ≠ .idle) : u.ticksLeft = u.phase.duration u.cfg + u.ticksAfter := by
    refine State.ticksLeft_entered (env.cfg ▸ hi.legal) hu ?_
    obtain ⟨hpos, -⟩ | ⟨-, -, e⟩ := h.timer_cases hi.legal hp
    · simp [ht] at hpos
    · rw [env.cfg, e hu]
  by_cases hh : s.phase = .hold
  · rw [State.ticksAfter, if_pos hh]
    exact if_pos (h.idle_of_hold hh ht)
  rw [State.ticksAfter, if_neg hh]
  obtain ⟨hu, e⟩ | ⟨hu, e⟩ := h.halfSpent (hi.holdsCommand hp) hp hh ht
  · rw [entered (by simp [hu]), State.ticksAfter, if_pos hu, hu, e, env.cfg]
    simp [Phase.duration]
  · obtain ⟨hui, -, huh⟩ := u.phase.isHalf_iff.mp hu
    rw [entered hui, State.ticksAfter, if_neg huh, Phase.duration_of_isHalf _ hu, e, env.cfg]
    ring

/-- Every tick of a command in progress brings its response one tick nearer. -/
theorem State.ticksLeft_phaseTick (hi : s.Inv) (hp : s.phase ≠ .idle) : s.phaseTick.ticksLeft + 1 = s.ticksLeft := by
  rw [State.ticksLeft_busy hp]
  obtain ht | ht := timer_zero_or_pos s.timer
  · rw [s.phaseTick_step.ticksLeft_eq_ticksAfter hi hp ht, ht]
    exact Nat.add_comm _ _
  · have counted : s.timer.toNat = (s.timer - 1).toNat + 1 := by bv_omega
    rw [State.phaseTick_count hp ht, State.ticksLeft_busy (s := { s with timer := s.timer - 1, rxacc := s.nextAcc }) hp,
      counted]
    show (s.timer - 1).toNat + 1 + s.ticksAfter + 1 = _
    omega

/-- The longest frame window is a Read's, with its dummy cycle and W data cycles (R166, R189). -/
theorem clockPulses_le_read (org : Org) (c : Command) : clockPulses org c ≤ clockPulses org .read := by
  cases org <;> cases c <;> decide

theorem code_injective : Function.Injective Command.code := fun c c' h => by
  simpa using congrArg Command.ofCode h

theorem encode_bits {t : OpcodeTable} {org : Org} {c : Command} {a d : Operand} {f : Frame}
    (he : encode t org c.code a d = .ok f) : f.bits = frameBits org c := by
  obtain ⟨c', hc, -, rfl⟩ := encode_ok he
  rw [packFrame_bits, code_injective hc]

/-- The pulses a command in progress has to come are within a Read's. -/
theorem State.HoldsCommand.pulses_le_read (hc : s.HoldsCommand) :
    s.bitcnt.toNat + (if s.isread then 1 + s.rxcnt.toNat else 0) ≤ clockPulses s.org .read := by
  obtain ⟨c, a, d, f, he, -, hrd, hn⟩ := hc
  rw [encode_bits he] at hn
  have counters : s.bitcnt.toNat ≤ frameBits s.org c ∧ s.rxcnt.toNat ≤ s.org.wordWidth := by
    have : (if c.isRead then s.org.wordWidth else 0) ≤ s.org.wordWidth := by split <;> omega
    unfold State.CountersAt at hn
    split at hn <;> omega
  refine le_trans ?_ (clockPulses_le_read s.org c)
  rw [hrd, clockPulses]
  refine Nat.add_le_add counters.1 ?_
  split <;> omega

/-- The halves that follow a phase are within a Read's window, and so is a half that is in progress. -/
theorem State.HoldsCommand.halvesAfter_le (hc : s.HoldsCommand) :
    (s.phase = .setup → s.halvesAfter ≤ 2 * clockPulses s.org .read) ∧
      (s.phase.isHalf = true → s.halvesAfter + 1 ≤ 2 * clockPulses s.org .read) := by
  have pulses := hc.pulses_le_read
  have one : 1 ≤ clockPulses s.org .read := by cases s.org <;> decide
  refine ⟨fun hp => ?_, fun hp => ?_⟩
  · rw [State.halvesAfter_of_phase hp]
    exact Nat.mul_le_mul_left 2 pulses
  · have receiving := hc.receiving
    cases h : s.phase with
    | idle | setup | hold => rw [h] at hp; cases hp
    | txl | txh =>
      rw [State.halvesAfter_of_phase h]
      simp only [Phase.halvesAfter]
      omega
    | dml | dmh | rxl | rxh =>
      rw [if_pos (receiving (by simp [h])).1] at pulses
      rw [State.halvesAfter_of_phase h]
      simp only [Phase.halvesAfter]
      omega

theorem State.Inv.ticksLeft_le (hi : s.Inv) (hp : s.phase ≠ .idle) : s.ticksLeft ≤ csHighTicks s.cfg s.org .read := by
  obtain ⟨setup, half⟩ := (hi.holdsCommand hp).halvesAfter_le
  have ht := hi.timer hp
  have pulses {n m : Nat} (h : n ≤ m) : n * s.cfg.tHalf ≤ m * s.cfg.tHalf := Nat.mul_le_mul_right _ h
  rw [State.ticksLeft_busy hp, csHighTicks, State.ticksAfter]
  by_cases hh : s.phase = .hold
  · rw [hh, Phase.duration] at ht
    rw [if_pos hh]
    omega
  rw [if_neg hh]
  by_cases hs : s.phase = .setup
  · have := pulses (setup hs)
    rw [hs, Phase.duration] at ht
    omega
  · have isHalf := s.phase.isHalf_iff.mpr ⟨hp, hs, hh⟩
    have := pulses (half isHalf)
    rw [Nat.succ_mul] at this
    rw [Phase.duration_of_isHalf _ isHalf] at ht
    omega

/-- A command in progress responds successfully when its ticks are over, unless it is reset. -/
theorem run_ticksLeft (hi : s.Inv) (hp : s.phase ≠ .idle) (hq : s.QuietFor s.ticksLeft) :
    ∃ t, run s.ticksLeft s = .next t ∧ t.phase = .idle ∧ t.rspv = true ∧ t.errcode = 0 ∧ t.sr = s.sr := by
  induction hn : s.ticksLeft generalizing s with
  | zero => rw [State.ticksLeft_busy hp] at hn; omega
  | succ n ih =>
    have hs := step_busy hi.legal hp (hq 0 (by omega))
    have tick := s.phaseTick_step
    have left : s.phaseTick.ticksLeft = n := by
      have := State.ticksLeft_phaseTick hi hp
      omega
    rw [run_succ_next hs]
    by_cases hu : s.phaseTick.phase = .idle
    · rw [State.ticksLeft, if_pos hu] at left
      obtain ⟨hv, he⟩ := tick.responds_of_idle hp hu
      exact ⟨s.phaseTick.passTick, by rw [← left, run_zero], hu, hv, he, tick.sr⟩
    · obtain ⟨-, hhost, -, htick⟩ := step_environment hs
      have hq' : s.phaseTick.passTick.QuietFor s.phaseTick.ticksLeft :=
        State.QuietFor.after (a := 1) (hq.mono (by omega)) (by rw [hhost, List.drop_one]) htick
      obtain ⟨t, hrun, hidle, hv, he, hsr⟩ :=
        ih (s := s.phaseTick.passTick) (State.passTick_inv (tick.inv hi)) hu hq' left
      exact ⟨t, hrun, hidle, hv, he, hsr.trans tick.sr⟩

/-- Settles O59: the response comes after `State.ticksLeft` ticks, which each tick counts down by one and which are within
the window of a Read. -/
theorem commandsInProgressEnd : Obligations.CommandsInProgressEnd := by
  intro s hi hp hq
  have hle := hi.ticksLeft_le hp
  obtain ⟨t, hrun, ht⟩ := run_ticksLeft hi hp fun j hj => hq j (hj.le.trans hle)
  exact ⟨s.ticksLeft, t, by rw [State.ticksLeft_busy hp]; omega, hle, hrun, ht⟩

end Machine

end Sys2Proof

/-! # Proofs about the encodings and the acceptance of a command (`30_encoding.md`) -/

namespace Sys2Proof

/-- Settles O2: the decoder finds the frame's row and reads the operands back (`decodeFrame_encodeInstr`). -/
theorem wellFormedFramesRoundTrip : Obligations.WellFormedFramesRoundTrip := fun _ _ ht hw =>
  decodeFrame_encodeInstr ht hw

/-! ### Fields of a frame (R74, R83, R105) -/

/-- A word that fits `w` bits loses none in them. -/
theorem setWidth_setWidth_of_lt {v : BitVec 32} {w : Nat} (hv : v.toNat < 2 ^ w) : (v.setWidth w).setWidth 32 = v := by
  ext i hi
  by_cases h : i < w
  · simp [h, BitVec.getLsbD_eq_getElem hi]
  · simp [h, ← BitVec.getLsbD_eq_getElem, getLsbD_of_toNat_lt hv (Nat.not_lt.mp h)]

/-- A mask of `n` ones keeps a frame that fits `n` bits. -/
theorem and_ones_of_lt {f : FrameWord} {n : Nat} (hf : f.toNat < 2 ^ n) : f &&& (BitVec.allOnes n).setWidth 32 = f := by
  simpa [setWidth_setWidth_of_lt hf] using and_onesAt (f.setWidth n) 0

/-- An operand that fits its field is packed whole (R105). -/
theorem fieldAt_of_lt {v : Operand} {w : Nat} (hv : v.toNat < 2 ^ w) (k : Nat) : fieldAt v w (some k) = v <<< k := by
  rw [fieldAt, setWidth_setWidth_of_lt hv]

/-- A field holds no more bits than its width. -/
theorem fieldOf_lt (f : FrameWord) (w : Nat) (off : Option Nat) : (fieldOf f w off).toNat < 2 ^ w := by
  cases off with
  | none => exact Nat.two_pow_pos w
  | some k =>
    rw [fieldOf, BitVec.toNat_setWidth]
    exact (Nat.mod_le _ _).trans_lt (BitVec.isLt _)

/-- A field packed where it was read keeps the bits that stand there, and no others. -/
theorem fieldAt_fieldOf (f : FrameWord) (w : Nat) (off : Option Nat) :
    fieldAt (fieldOf f w off) w off = f &&& fieldAt (BitVec.allOnes 32) w off := by
  cases off with
  | none => simp [fieldAt]
  | some k =>
    ext i hi
    by_cases hk : i < k
    · simp [fieldAt, hk]
    · by_cases h : i - k < w <;>
        simp [fieldAt, fieldOf, hk, h, show i - k < 32 by omega, show k + (i - k) = i by omega, BitVec.getLsbD_eq_getElem hi,
          -BitVec.reduceAllOnes]

theorem ushiftRight_eq_zero_of_lt {f : FrameWord} {n : Nat} (hf : f.toNat < 2 ^ n) : f >>> n = 0 :=
  BitVec.eq_of_toNat_eq (by rw [BitVec.toNat_ushiftRight, Nat.shiftRight_eq_div_pow, Nat.div_eq_of_lt hf]; rfl)

/-! ### The frame as the concatenation of its fields (R74, R78, R105) -/

/-- The frame of Write: the start bit, OP, the address and the data (R74). -/
theorem packFrame_addressData {t : OpcodeTable} (ht : t.legal = true) (org : Org) {c : Command} (ha : c.usesAddr = true)
    (hd : c.usesData = true) (a d : Operand) :
    (packFrame t org c a d).value =
      (1#1 ++ (t.entry c).op ++ a.setWidth org.addrWidth ++ d.setWidth org.wordWidth).setWidth 32 := by
  obtain ⟨hs, hx, -⟩ := t.legal_iff.mp ht
  have hext : (t.entry c).ext = none := by simpa [ha] using hx c
  have hoff : 3 + org.addrWidth + org.wordWidth - 3 = org.addrWidth + org.wordWidth := by omega
  simp only [packFrame, layout, hext, hs c, ha, hd, if_true, fieldAt, frameBits, hoff, setWidth_append (_ ++ _),
    BitVec.shiftLeft_or_distrib, BitVec.shiftLeft_add, BitVec.shiftLeft_zero]

/-- The pattern of a command without an address: the start bit, OP, EXT and zeros (R74, R78). -/
theorem layout_pattern_extended {t : OpcodeTable} (ht : t.legal = true) (org : Org) {c : Command} (ha : c.usesAddr = false) :
    (layout t org c).pattern =
      (1#1 ++ (t.entry c).op ++ (t.entry c).ext.getD 0).setWidth 32 <<< (frameBits org c - 5) := by
  obtain ⟨hs, hx, -⟩ := t.legal_iff.mp ht
  obtain ⟨x, hext⟩ := Option.isSome_iff_exists.mp ((hx c).trans (by rw [ha]; rfl))
  rw [(layout_extended org hext).1, headOff, hext, hs c]
  rfl

/-- The frame of a command without operands: the start bit, OP, EXT and zeros (R74, R78). -/
theorem packFrame_extended {t : OpcodeTable} (ht : t.legal = true) (org : Org) {c : Command} (ha : c.usesAddr = false)
    (hd : c.usesData = false) (a d : Operand) :
    (packFrame t org c a d).value =
      (1#1 ++ (t.entry c).op ++ (t.entry c).ext.getD 0 ++ BitVec.zero (org.addrWidth - 2)).setWidth 32 := by
  have hoff : frameBits org c - 5 = org.addrWidth - 2 := by rw [frameBits, hd]; cases org <;> rfl
  have haddr : (layout t org c).addrOff = none := by simp [layout, ha]
  have hdata : (layout t org c).dataOff = none := by simp [layout, hd]
  simp [packFrame, haddr, hdata, fieldAt, layout_pattern_extended ht org ha, hoff, setWidth_append (_ ++ _)]

/-- The frame of WriteAll: the start bit, OP, EXT, zeros and the data (R74, R78). -/
theorem packFrame_extendedData {t : OpcodeTable} (ht : t.legal = true) (org : Org) {c : Command} (ha : c.usesAddr = false)
    (hd : c.usesData = true) (a d : Operand) :
    (packFrame t org c a d).value =
      (1#1 ++ (t.entry c).op ++ (t.entry c).ext.getD 0 ++ BitVec.zero (org.addrWidth - 2) ++
        d.setWidth org.wordWidth).setWidth 32 := by
  have hoff : frameBits org c - 5 = (org.addrWidth - 2) + org.wordWidth := by rw [frameBits, hd]; cases org <;> rfl
  have haddr : (layout t org c).addrOff = none := by simp [layout, ha]
  have hdata : (layout t org c).dataOff = some 0 := by simp [layout, hd]
  simp [packFrame, haddr, hdata, fieldAt, layout_pattern_extended ht org ha, hoff, setWidth_append (_ ++ _),
    BitVec.shiftLeft_add]

/-! ### The instruction a command is (R72) -/

theorem wellFormed_instrOf (org : Org) (c : Command) (a d : Operand) :
    (instrOf org c a d).wellFormed = true ↔ Machine.validate org c a d = none := by
  rw [Machine.wellFormed_iff, instrOf_org, instrOf_command, instrOf_addr, instrOf_data, Machine.validate_ignores]

theorem encodeInstr_instrOf (t : OpcodeTable) (org : Org) (c : Command) (a d : Operand) :
    encodeInstr t (instrOf org c a d) = packFrame t org c a d := by
  rw [encodeInstr, instrOf_org, instrOf_command, instrOf_addr, instrOf_data, Machine.packFrame_ignores]

/-! ### What the frame decoder can answer (R78, R83) -/

/-- A frame that decodes fits its bit-count, and matches a row of that bit-count, from which it is read (R83). -/
theorem decodeFrame_ok {t : OpcodeTable} {org : Org} {n : Nat} {f : FrameWord} {i : Instr}
    (h : decodeFrame t org n f = .ok i) :
    ∃ c, f.toNat < 2 ^ n ∧ frameBits org c = n ∧ f &&& (layout t org c).mask = (layout t org c).pattern ∧
      i = readRow t org f c := by
  unfold decodeFrame at h
  split at h
  · cases h
  split at h
  · cases h
  split at h
  · rename_i fits _ _ c hc
    have hm := List.find?_some hc
    rw [matchesRow, Bool.and_eq_true, beq_iff_eq, beq_iff_eq] at hm
    obtain ⟨hN, hmask⟩ := hm
    exact ⟨c, Nat.not_le.mp fits, hN, hmask, (Except.ok.inj h).symm⟩
  · cases h

/-- The bits of a row that a receiver reads: S, OP and EXT, and the operands. -/
def rowBits (t : OpcodeTable) (org : Org) (c : Command) : FrameWord :=
  (layout t org c).mask ||| fieldAt (BitVec.allOnes 32) org.addrWidth (layout t org c).addrOff |||
    fieldAt (BitVec.allOnes 32) org.wordWidth (layout t org c).dataOff

/-- The frame of the instruction read from a matching frame keeps the bits that are read. -/
theorem encodeInstr_readRow {t : OpcodeTable} {org : Org} {c : Command} {f : FrameWord}
    (hm : f &&& (layout t org c).mask = (layout t org c).pattern) :
    (encodeInstr t (readRow t org f c)).value = f &&& rowBits t org c := by
  rw [encodeInstr, readRow, instrOf_org, instrOf_command, instrOf_addr, instrOf_data, Machine.packFrame_ignores,
    packFrame, fieldAt_fieldOf, fieldAt_fieldOf, ← hm, rowBits, BitVec.and_or_distrib_left, BitVec.and_or_distrib_left]

/-- A row compares S and OP, and EXT where it has one (R83). -/
theorem layout_mask (t : OpcodeTable) (org : Org) (c : Command) :
    (layout t org c).mask =
      (BitVec.allOnes (if (t.entry c).ext.isSome then 5 else 3)).setWidth 32 <<< headOff t org c := by
  cases hx : (t.entry c).ext with
  | none => exact (layout_plain org hx).2
  | some x => exact (layout_extended org hx).2

/-- Which bits a row reads is the same in every legal table: EXT stands in the rows without an address (R6, R83). -/
theorem rowBits_eq_default {t : OpcodeTable} (ht : t.legal = true) (org : Org) (c : Command) :
    rowBits t org c = rowBits Config.defaultOpcodes org c := by
  have same : (t.entry c).ext.isSome = (Config.defaultOpcodes.entry c).ext.isSome := by
    obtain ⟨-, hx, -⟩ := t.legal_iff.mp ht
    rw [hx]
    cases c <;> rfl
  have mask : (layout t org c).mask = (layout Config.defaultOpcodes org c).mask := by
    rw [layout_mask, layout_mask, headOff, headOff, same]
  rw [rowBits, mask]
  rfl

/-- A row with an address reads every bit. -/
theorem rowBits_address {t : OpcodeTable} (ht : t.legal = true) (org : Org) {c : Command} (ha : c.usesAddr = true) :
    rowBits t org c = (BitVec.allOnes (frameBits org c)).setWidth 32 := by
  rw [rowBits_eq_default ht]
  revert ha
  cases org <;> cases c <;> decide

/-- A row without an address does not read the AW-2 bits below EXT (R78). -/
theorem rowBits_extended {t : OpcodeTable} (ht : t.legal = true) (org : Org) {c : Command} (ha : c.usesAddr = false) :
    rowBits t org c = (BitVec.allOnes (frameBits org c)).setWidth 32 &&&
      ~~~(BitVec.ofNat 32 (2 ^ (org.addrWidth - 2) - 1) <<< (if c.usesData then org.wordWidth else 0)) := by
  rw [rowBits_eq_default ht]
  revert ha
  cases org <;> cases c <;> decide

/-- Settles O4: the frame is read from its row (`decodeFrame_ok`), and encoding keeps the bits that are read. -/
theorem decodedFramesReencode : Obligations.DecodedFramesReencode := by
  intro t org n f i ht h
  obtain ⟨c, hf, rfl, hm, rfl⟩ := decodeFrame_ok h
  have value := encodeInstr_readRow hm
  rw [readRow] at value ⊢
  refine ⟨?_, instrOf_org _ _ _ _, ?_, fun ha => ?_, fun ha => ?_⟩
  · rw [wellFormed_instrOf, Machine.validate_eq_none]
    exact ⟨fun _ => fieldOf_lt _ _ _, fun _ => fieldOf_lt _ _ _⟩
  · rw [encodeInstr, Machine.packFrame_bits, instrOf_org, instrOf_command]
  · rw [instrOf_command] at ha
    rw [value, rowBits_address ht org ha, and_ones_of_lt hf]
  · rw [instrOf_command] at ha ⊢
    rw [value, rowBits_extended ht org ha, ← BitVec.and_assoc, and_ones_of_lt hf]

/-! ### The first bits on the wire (R53, R79) -/

/-- The first bits of a wire string are the wire string of the frame's top bits (R53). -/
theorem Frame.take_wire (v : FrameWord) (k n : Nat) : (Frame.wire ⟨v, k + n⟩).take k = Frame.wire ⟨v >>> n, k⟩ := by
  simp only [Frame.wire, ← List.map_take, List.take_range, Nat.min_eq_left (Nat.le_add_right k n)]
  refine List.map_congr_left fun j hj => ?_
  have := List.mem_range.mp hj
  rw [BitVec.getLsbD_ushiftRight]
  congr 1
  omega

namespace Machine

/-! ### What the encoder answers to a command (R100 to R105, R113) -/

/-- The encoder accepts a command exactly where validation passes, and answers its packed frame. -/
theorem encode_code_ok_iff {t : OpcodeTable} {org : Org} {c : Command} {a d : Operand} {f : Frame} :
    encode t org c.code a d = .ok f ↔ validate org c a d = none ∧ f = packFrame t org c a d := by
  constructor
  · intro h
    obtain ⟨c', hc, hv, rfl⟩ := encode_ok h
    rw [code_injective hc]
    exact ⟨hv, rfl⟩
  · rintro ⟨hv, rfl⟩
    simp only [encode, Command.ofCode_code, hv]

/-- Settles O12: one shape of frame for each use of EXT and data. -/
theorem framesAreConcatenations : Obligations.FramesAreConcatenations := by
  intro t org c a d f ht h
  obtain ⟨-, rfl⟩ := encode_code_ok_iff.mp h
  obtain ⟨-, hx, -⟩ := t.legal_iff.mp ht
  have uses := hx c
  cases hext : (t.entry c).ext with
  | none =>
    have ha : c.usesAddr = true := by simpa [hext] using uses
    cases hd : c.usesData with
    | true => exact packFrame_addressData ht org ha hd a d
    | false => exact packFrame_address ht org ha hd a d
  | some x =>
    have ha : c.usesAddr = false := by simpa [hext] using uses
    have ext : x = (t.entry c).ext.getD 0 := by rw [hext]; rfl
    rw [ext]
    cases hd : c.usesData with
    | true => exact packFrame_extendedData ht org ha hd a d
    | false => exact packFrame_extended ht org ha hd a d

/-- The first bit of a packed frame is the start bit, 1 (R74). -/
theorem packFrame_startBit {t : OpcodeTable} (ht : t.legal = true) (org : Org) (c : Command) (a d : Operand) :
    (packFrame t org c a d).value.getLsbD (frameBits org c - 1) = true := by
  obtain ⟨hs, -⟩ := t.legal_iff.mp ht
  have hn := frameBits_range org c
  have start : ((t.entry c).start ++ (t.entry c).op).getLsbD (frameBits org c - 1 - (frameBits org c - 3)) = true := by
    rw [show frameBits org c - 1 - (frameBits org c - 3) = 2 by omega, BitVec.getLsbD_append, hs]
    rfl
  have top : ((packFrame t org c a d).value &&& opMask (frameBits org c)).getLsbD (frameBits org c - 1) = true := by
    rw [and_opMask_of_match (packFrame_and_mask ht org c a d), BitVec.getLsbD_shiftLeft, BitVec.getLsbD_setWidth, start]
    simp [show frameBits org c - 1 < 32 by omega, show ¬frameBits org c - 1 < frameBits org c - 3 by omega,
      show frameBits org c - 1 - (frameBits org c - 3) < 32 by omega]
  rw [BitVec.getLsbD_and] at top
  exact Bool.and_elim_left top

/-- Settles O13: each clause is a fact of the packed frame; the encoder sees no operand the command does not use
(`encode_ignores`). -/
theorem encoderProperties : Obligations.EncoderProperties := by
  intro t org c a d f ht h
  obtain ⟨hv, rfl⟩ := encode_code_ok_iff.mp h
  obtain ⟨hfa, hfd⟩ := (validate_eq_none _ _ _ _).mp hv
  have bound := packFrame_value_lt t org c a d
  refine ⟨?_, bound, fun j => getLsbD_of_toNat_lt bound, packFrame_startBit ht org c a d, fun ha => ?_, fun hd => ?_, ?_,
    fun a' d' ha hd => ?_⟩
  · rw [packFrame_bits]
    cases org <;> cases c <;> rfl
  · have field := packFrame_addrField ht org c a d hfa
    simpa [layout, ha, fieldOf] using field
  · have field := packFrame_dataField t org c a d hfd
    simpa [layout, hd, fieldOf] using field
  · have back := decodeFrame_encodeInstr ht ((wellFormed_instrOf org c a d).mpr hv)
    rwa [encodeInstr_instrOf, instrOf_org, instrOf_command] at back
  · rw [← encode_ignores, ite_congr rfl ha fun _ => rfl, ite_congr rfl hd fun _ => rfl, encode_ignores]
    exact h

/-! ### The frame of each shape of command (R106 to R112) -/

/-- The frame of operands that fit: the row's pattern, ORed with each used operand at its offset (R105). -/
theorem encode_code_of_fits (t : OpcodeTable) (org : Org) (c : Command) {a d : Operand}
    (ha : c.usesAddr = true → a.toNat < 2 ^ org.addrWidth) (hd : c.usesData = true → d.toNat < 2 ^ org.wordWidth) :
    encode t org c.code a d = .ok
      ⟨(layout t org c).pattern ||| (if c.usesAddr then a <<< (if c.usesData then org.wordWidth else 0) else 0) |||
        (if c.usesData then d else 0), frameBits org c⟩ := by
  have addr : fieldAt a org.addrWidth (layout t org c).addrOff =
      if c.usesAddr then a <<< (if c.usesData then org.wordWidth else 0) else 0 := by
    cases h : c.usesAddr with
    | true => simp [layout, h, fieldAt_of_lt (ha h)]
    | false => simp [layout, h, fieldAt]
  have data : fieldAt d org.wordWidth (layout t org c).dataOff = if c.usesData then d else 0 := by
    cases h : c.usesData with
    | true => simp [layout, h, fieldAt_of_lt (hd h)]
    | false => simp [layout, h, fieldAt]
  rw [encode_code_ok_iff, ← addr, ← data]
  exact ⟨(validate_eq_none _ _ _ _).mpr ⟨ha, hd⟩, rfl⟩

theorem encode_code_error {t : OpcodeTable} {org : Org} {c : Command} {a d : Operand} {cause : Cause}
    (hv : validate org c a d = some cause) : encode t org c.code a d = .error cause := by
  simp only [encode, Command.ofCode_code, hv]

theorem validate_data {org : Org} {c : Command} {a d : Operand} (ha : c.usesAddr = true → a.toNat < 2 ^ org.addrWidth)
    (hc : c.usesData = true) (hd : 2 ^ org.wordWidth ≤ d.toNat) : validate org c a d = some .data := by
  rw [validate, (outOfRange_eq_false _ _ _).mpr ha]
  simp [outOfRange, hc, fits, Nat.not_lt.mpr hd]

section Shapes

variable {t : OpcodeTable} {c : Command}

/-- The frame of a command without operands is its row's pattern. -/
theorem encode_noOperands (org : Org) (ha : c.usesAddr = false) (hd : c.usesData = false) (a d : Operand) :
    encode t org c.code a d = .ok ⟨(layout t org c).pattern, frameBits org c⟩ := by
  rw [encode_code_of_fits _ _ _ (by simp [ha]) (by simp [hd])]
  simp [ha, hd]

/-- The frame of a command with data alone. -/
theorem encode_dataOnly (org : Org) (ha : c.usesAddr = false) (hd : c.usesData = true) (a : Operand) {d : Operand}
    (hfit : d.toNat < 2 ^ org.wordWidth) :
    encode t org c.code a d = .ok ⟨(layout t org c).pattern ||| d, frameBits org c⟩ := by
  rw [encode_code_of_fits _ _ _ (by simp [ha]) fun _ => hfit]
  simp [ha, hd]

/-- The frame of a command with an address alone. -/
theorem encode_addressOnly (org : Org) (ha : c.usesAddr = true) (hd : c.usesData = false) {a : Operand} (d : Operand)
    (hfit : a.toNat < 2 ^ org.addrWidth) :
    encode t org c.code a d = .ok ⟨(layout t org c).pattern ||| a, frameBits org c⟩ := by
  rw [encode_code_of_fits _ _ _ (fun _ => hfit) (by simp [hd])]
  simp [ha, hd]

end Shapes

/-- Settles O8: the patterns of the three rows. -/
theorem encodeCommandsWithoutOperands : Obligations.EncodeCommandsWithoutOperands := fun a d =>
  ⟨encode_noOperands (c := .writeDisable) .sixteen rfl rfl a d, encode_noOperands (c := .writeDisable) .eight rfl rfl a d,
    encode_noOperands (c := .eraseAll) .sixteen rfl rfl a d, encode_noOperands (c := .eraseAll) .eight rfl rfl a d,
    encode_noOperands (c := .writeEnable) .sixteen rfl rfl a d, encode_noOperands (c := .writeEnable) .eight rfl rfl a d⟩

/-- Settles O9: the pattern of WriteAll's row with data that fits; other data is rejected (`validate_data`). -/
theorem encodeWriteAll : Obligations.EncodeWriteAll := by
  intro a d
  refine ⟨fun hd => ?_, fun hd => ?_, fun hd => ?_, fun hd => ?_, ?_⟩
  · exact encode_dataOnly (c := .writeAll) .sixteen rfl rfl a hd
  · exact encode_code_error (c := .writeAll) (validate_data (org := .sixteen) nofun rfl hd)
  · exact encode_dataOnly (c := .writeAll) .eight rfl rfl a hd
  · exact encode_code_error (c := .writeAll) (validate_data (org := .eight) nofun rfl hd)
  · exact encode_dataOnly (c := .writeAll) .eight rfl rfl a (d := 0xA5) (by decide)

/-- Settles O11: the patterns of both rows with an address that fits; other addresses are rejected (`validate_address`). -/
theorem encodeReadAndErase : Obligations.EncodeReadAndErase := by
  intro a d
  refine ⟨fun ha => ?_, fun ha => ?_, fun ha => ?_, fun ha => ?_, fun ha => ?_, fun ha => ?_, fun ha => ?_, fun ha => ?_,
    ?_, ?_⟩
  · exact encode_addressOnly (c := .read) .sixteen rfl rfl d ha
  · exact encode_code_error (c := .read) (validate_address (org := .sixteen) d rfl ha)
  · exact encode_addressOnly (c := .read) .eight rfl rfl d ha
  · exact encode_code_error (c := .read) (validate_address (org := .eight) d rfl ha)
  · exact encode_addressOnly (c := .erase) .sixteen rfl rfl d ha
  · exact encode_code_error (c := .erase) (validate_address (org := .sixteen) d rfl ha)
  · exact encode_addressOnly (c := .erase) .eight rfl rfl d ha
  · exact encode_code_error (c := .erase) (validate_address (org := .eight) d rfl ha)
  · exact encode_addressOnly (c := .read) .sixteen rfl rfl (a := 0x05) d (by decide)
  · exact encode_addressOnly (c := .erase) .eight rfl rfl (a := 0x7F) d (by decide)

/-! ### What the first bits tell under the default OPCODE_TABLE (R79) -/

/-- Where no operand stands among the first bits of a frame, they are the pattern's (R74, R79). -/
theorem take_wire_packFrame {t : OpcodeTable} (ht : t.legal = true) (org : Org) {c : Command} (a d : Operand) {k : Nat}
    (hk : headOff t org c + k ≤ frameBits org c) :
    (packFrame t org c a d).wire.take k = Frame.wire ⟨(layout t org c).pattern >>> (frameBits org c - k), k⟩ := by
  have below {off : Option Nat} {w : Nat} (v : Operand) (h : ∀ j ∈ off, w + j ≤ headOff t org c) :
      fieldAt v w off >>> (frameBits org c - k) = 0 :=
    ushiftRight_eq_zero_of_lt (fieldAt_lt v fun j hj => (h j hj).trans (by omega))
  have top : (packFrame t org c a d).value >>> (frameBits org c - k) =
      (layout t org c).pattern >>> (frameBits org c - k) := by
    simp [packFrame, BitVec.ushiftRight_or_distrib, below a (addrOff_le_headOff ht org c),
      below d (dataOff_le_headOff t org c)]
  have bits : (packFrame t org c a d).bits = k + (frameBits org c - k) := by rw [packFrame_bits]; omega
  rw [← top, ← Frame.take_wire, ← bits]

/-- Settles O14: the first three bits are S and OP, and the first five S, OP and EXT where the row has EXT. -/
theorem frameLengthFromFirstFiveBits : Obligations.FrameLengthFromFirstFiveBits := by
  intro org c a d f h
  obtain ⟨-, rfl⟩ := encode_code_ok_iff.mp h
  have legal : Config.defaultOpcodes.legal = true := by decide
  have op := take_wire_packFrame (k := 3) legal org (c := c) a d (by cases org <;> cases c <;> decide)
  refine ⟨by cases c <;> rfl, ?_⟩
  cases ha : c.usesAddr with
  | true =>
    have notExtended : (packFrame Config.defaultOpcodes org c a d).wire.take 5 ≠ [true, false, false, false, true] := by
      intro h
      have first := congrArg (List.take 3) h
      rw [List.take_take, show min 3 5 = 3 from rfl, op] at first
      revert ha first
      cases org <;> cases c <;> decide
    rw [op, iff_false_intro notExtended, or_false]
    revert ha
    cases org <;> cases c <;> decide
  | false =>
    have ext := take_wire_packFrame (k := 5) legal org (c := c) a d (by revert ha; cases org <;> cases c <;> decide)
    rw [op, ext]
    revert ha
    cases org <;> cases c <;> decide

/-! ### The command codes (R71) -/

/-- Settles O5: the codes by `decodePort_code`; the reserved code is one rejection (`rejectionHasNoBusActivity`). -/
theorem commandCodesAndReservedCode : Obligations.CommandCodesAndReservedCode := by
  refine ⟨fun a d => ?_, fun s hl ha hop => ?_⟩
  · have named (org : Org) (c : Command) := decodePort_code org c a d
    exact ⟨named .sixteen .writeDisable, named .eight .writeDisable, named .sixteen .writeAll, named .eight .writeAll,
      named .sixteen .eraseAll, named .eight .eraseAll, named .sixteen .writeEnable, named .eight .writeEnable,
      named .sixteen .write, named .eight .write, named .sixteen .read, named .eight .read, named .sixteen .erase,
      named .eight .erase, rfl, rfl⟩
  · obtain ⟨pins, next, pins', -⟩ := rejectionHasNoBusActivity s .opcode hl ha (by rw [hop]; rfl)
    exact ⟨pins, next, pins'⟩

/-! ### Acceptance and rejection of the commands that return no data (R151, R160 to R165, R212) -/

/-- A ready CORE takes a command whose operands fit; none but Read has a sample to take (R151). -/
theorem exec_started {s : State} {i : Instr} {value : FrameWord} (hr : s.cmdReady = true) (ho : s.org = i.org)
    (hread : i.command.isRead = false) (ha : i.command.usesAddr = true → i.addr.toNat < 2 ^ i.org.addrWidth)
    (hd : i.command.usesData = true → i.data.toNat < 2 ^ i.org.wordWidth)
    (hv : (packFrame s.cfg.opcodes i.org i.command i.addr i.data).value = value) :
    exec i s = .next (s.started value (BitVec.ofNat 6 (frameBits i.org i.command)) false 0) := by
  have hw : i.wellFormed = true := (wellFormed_iff i).mpr ((validate_eq_none _ _ _ _).mpr ⟨ha, hd⟩)
  rw [exec_wellFormed hr ho hw, State.accepted_eq_started, encodeInstr, hv, hread]
  rfl

/-- Settles O35: the frames are those of `packFrame_extended`. -/
theorem commandsWithoutOperandsAreAccepted : Obligations.CommandsWithoutOperandsAreAccepted := by
  intro s hl hr
  obtain ⟨-, -, -, ht⟩ := (Params.legal_iff _).mp hl
  have frame (org : Org) {c : Command} (ha : c.usesAddr = false) (hd : c.usesData = false) :=
    packFrame_extended ht org ha hd 0 0
  refine ⟨fun ho => ⟨?_, ?_, ?_⟩, fun ho => ⟨?_, ?_, ?_⟩⟩
  · exact exec_started (i := .writeDisableX16) hr ho rfl nofun nofun (frame .sixteen rfl rfl)
  · exact exec_started (i := .eraseAllX16) hr ho rfl nofun nofun (frame .sixteen rfl rfl)
  · exact exec_started (i := .writeEnableX16) hr ho rfl nofun nofun (frame .sixteen rfl rfl)
  · exact exec_started (i := .writeDisableX8) hr ho rfl nofun nofun (frame .eight rfl rfl)
  · exact exec_started (i := .eraseAllX8) hr ho rfl nofun nofun (frame .eight rfl rfl)
  · exact exec_started (i := .writeEnableX8) hr ho rfl nofun nofun (frame .eight rfl rfl)

/-- Settles O36: the frame is that of `packFrame_extendedData`; data out of range is rejected (`validate_data`). -/
theorem writeAllIsAcceptedOrRejected : Obligations.WriteAllIsAcceptedOrRejected := by
  intro s d hl hr
  obtain ⟨-, -, -, ht⟩ := (Params.legal_iff _).mp hl
  have frame (org : Org) := packFrame_extendedData ht org (c := .writeAll) rfl rfl 0 d
  refine ⟨fun ho => ⟨fun hd => ?_, fun hd => ?_⟩, fun ho => ⟨fun hd => ?_, fun hd => ?_⟩⟩
  · exact exec_started (i := .writeAllX16 d) hr ho rfl nofun (fun _ => hd) (frame .sixteen)
  · exact exec_rejected (i := .writeAllX16 d) hr ho (validate_data (org := .sixteen) nofun rfl hd)
  · exact exec_started (i := .writeAllX8 d) hr ho rfl nofun (fun _ => hd) (frame .eight)
  · exact exec_rejected (i := .writeAllX8 d) hr ho (validate_data (org := .eight) nofun rfl hd)

/-- Settles O37: the frame is that of `packFrame_addressData`; the address is validated before the data. -/
theorem writeIsAcceptedOrRejected : Obligations.WriteIsAcceptedOrRejected := by
  intro s a d hl hr
  obtain ⟨-, -, -, ht⟩ := (Params.legal_iff _).mp hl
  have frame (org : Org) := packFrame_addressData ht org (c := .write) rfl rfl a d
  refine ⟨fun ho => ⟨fun ha hd => ?_, fun ha => ?_, fun ha hd => ?_⟩,
    fun ho => ⟨fun ha hd => ?_, fun ha => ?_, fun ha hd => ?_⟩⟩
  · exact exec_started (i := .writeX16 a d) hr ho rfl (fun _ => ha) (fun _ => hd) (frame .sixteen)
  · exact exec_rejected (i := .writeX16 a d) hr ho (validate_address (org := .sixteen) d rfl ha)
  · exact exec_rejected (i := .writeX16 a d) hr ho (validate_data (org := .sixteen) (fun _ => ha) rfl hd)
  · exact exec_started (i := .writeX8 a d) hr ho rfl (fun _ => ha) (fun _ => hd) (frame .eight)
  · exact exec_rejected (i := .writeX8 a d) hr ho (validate_address (org := .eight) d rfl ha)
  · exact exec_rejected (i := .writeX8 a d) hr ho (validate_data (org := .eight) (fun _ => ha) rfl hd)

/-- Settles O39: both rows are commands with an address and no data (`exec_address_started`). -/
theorem eraseIsAcceptedOrRejected : Obligations.EraseIsAcceptedOrRejected := by
  intro s a hl hr
  refine ⟨fun ho => ⟨fun ha => ?_, fun ha => ?_⟩, fun ho => ⟨fun ha => ?_, fun ha => ?_⟩⟩
  · exact exec_address_started (i := .eraseX16 a) hl hr ho rfl rfl ha
  · exact exec_rejected (i := .eraseX16 a) hr ho (validate_address (org := .sixteen) 0 rfl ha)
  · exact exec_address_started (i := .eraseX8 a) hl hr ho rfl rfl ha
  · exact exec_rejected (i := .eraseX8 a) hr ho (validate_address (org := .eight) 0 rfl ha)

end Machine

end Sys2Proof

/-! # Proofs about the encoder's answers (`40_encoder.md`) -/

namespace Sys2Proof

namespace Machine

/-- The frame of a command with an address and data: the address stands above the data (R105). -/
theorem encode_addressData {t : OpcodeTable} {c : Command} (org : Org) (ha : c.usesAddr = true) (hd : c.usesData = true)
    {a d : Operand} (hfa : a.toNat < 2 ^ org.addrWidth) (hfd : d.toNat < 2 ^ org.wordWidth) :
    encode t org c.code a d = .ok ⟨(layout t org c).pattern ||| a <<< org.wordWidth ||| d, frameBits org c⟩ := by
  rw [encode_code_of_fits _ _ _ (fun _ => hfa) fun _ => hfd]
  simp [ha, hd]

/-- Settles O10: the pattern of Write's row with operands that fit; the address is validated before the data
(`validate_address`, `validate_data`). -/
theorem encodeWrite : Obligations.EncodeWrite := by
  intro a d
  refine ⟨fun ha hd => ?_, fun ha => ?_, fun ha hd => ?_, fun ha hd => ?_, fun ha => ?_, fun ha hd => ?_, ?_, ?_, ?_⟩
  · exact encode_addressData (c := .write) .sixteen rfl rfl ha hd
  · exact encode_code_error (c := .write) (validate_address (org := .sixteen) d rfl ha)
  · exact encode_code_error (c := .write) (validate_data (org := .sixteen) (fun _ => ha) rfl hd)
  · exact encode_addressData (c := .write) .eight rfl rfl ha hd
  · exact encode_code_error (c := .write) (validate_address (org := .eight) d rfl ha)
  · exact encode_code_error (c := .write) (validate_data (org := .eight) (fun _ => ha) rfl hd)
  · exact encode_addressData (c := .write) .sixteen rfl rfl (a := 0x3F) (d := 0xFFFF) (by decide) (by decide)
  · exact encode_addressData (c := .write) .eight rfl rfl (a := 0x7F) (d := 0xFF) (by decide) (by decide)
  · exact encode_addressData (c := .write) .sixteen rfl rfl (a := 0x05) (d := 0xBEEF) (by decide) (by decide)

/-- The largest address of an organization is 2^AW - 1 (R102). -/
theorem maxAddress_succ (org : Org) : (if org = .sixteen then 63 else 127) + 1 = 2 ^ org.addrWidth := by
  cases org <;> rfl

/-- The largest data word of an organization is 2^W - 1 (R103). -/
theorem maxData_succ (org : Org) : (if org = .sixteen then 0xFFFF else 0xFF) + 1 = 2 ^ org.wordWidth := by
  cases org <;> rfl

/-- The reserved code is rejected before any operand is examined (R101, R104). -/
theorem encode_reserved (t : OpcodeTable) (org : Org) (a d : Operand) : encode t org 7 a d = .error .opcode := by
  rw [encode, Command.ofCode_eq_none.mpr rfl]

/-- The address port does not matter to a command without an address (R72, R102). -/
theorem encode_addr_irrelevant {c : Command} (t : OpcodeTable) (org : Org) (hc : c.usesAddr = false) (a a' d : Operand) :
    encode t org c.code a' d = encode t org c.code a d := by
  rw [← encode_ignores t org c a', ← encode_ignores t org c a, hc]
  rfl

/-- The data port does not matter to a command without data (R72, R103). -/
theorem encode_data_irrelevant {c : Command} (t : OpcodeTable) (org : Org) (hc : c.usesData = false) (a d d' : Operand) :
    encode t org c.code a d' = encode t org c.code a d := by
  rw [← encode_ignores t org c a d', ← encode_ignores t org c a d, hc]
  rfl

/-- Settles O7: each code names its command; the bounds are the field widths (`maxAddress_succ`, `maxData_succ`), and
an operand that is not used is not seen (`encode_addr_irrelevant`, `encode_data_irrelevant`). -/
theorem operandValidation : Obligations.OperandValidation := by
  intro t org op a d
  refine ⟨?_, fun hop ha => ?_, fun hop hd => ?_, fun hop a' => ?_, fun hop d' => ?_, rfl, rfl, rfl⟩
  · rintro rfl
    exact encode_reserved t org a d
  · have address (c : Command) (hc : c.usesAddr = true) : encode t org c.code a d = .error .address :=
      encode_code_error (validate_address d hc (maxAddress_succ org ▸ ha))
    obtain rfl | rfl | rfl := hop
    · exact address .write rfl
    · exact address .read rfl
    · exact address .erase rfl
  · have data (c : Command) (hc : c.usesData = true) (ha : c.usesAddr = true → a.toNat < 2 ^ org.addrWidth) :
        encode t org c.code a d = .error .data :=
      encode_code_error (validate_data ha hc (maxData_succ org ▸ hd))
    obtain rfl | ⟨rfl, ha⟩ := hop
    · exact data .writeAll rfl nofun
    · exact data .write rfl fun _ => maxAddress_succ org ▸ Nat.lt_succ_of_le ha
  · have unseen (c : Command) (hc : c.usesAddr = false) := encode_addr_irrelevant t org hc a a' d
    obtain rfl | rfl | rfl | rfl := hop
    · exact unseen .writeDisable rfl
    · exact unseen .writeAll rfl
    · exact unseen .eraseAll rfl
    · exact unseen .writeEnable rfl
  · have unseen (c : Command) (hc : c.usesData = false) := encode_data_irrelevant t org hc a d d'
    obtain rfl | rfl | rfl | rfl | rfl := hop
    · exact unseen .writeDisable rfl
    · exact unseen .eraseAll rfl
    · exact unseen .writeEnable rfl
    · exact unseen .read rfl
    · exact unseen .erase rfl

end Machine

end Sys2Proof

/-! # Proofs about the transmitter (`41_transmitter.md`) -/

namespace Sys2Proof

namespace Machine

variable {s t : State}

/-! ### The transmitter as a sub-block (R130, R150, R152) -/

/-- A phase with the whole of its duration to go is at its entry, whatever the counters (R28). -/
theorem State.eq_put (ht : s.timer.toNat = s.phase.duration s.cfg - 1) :
    s = s.put s.phase s.bitcnt.toNat s.rxcnt.toNat s.rxacc := by
  simp [State.put, ← ht]

/-- Settles O45: SETUP at its entry starts the window of SR and BITCNT (`Runs.window`), and without a Read's cycles its
lines are the waveform of Execute (`waveform_executeTrace`). -/
theorem sequencerShowsAnyFrame : Obligations.SequencerShowsAnyFrame := by
  intro s hl hp ht hb hrd hq
  have start := s.eq_put (by rw [ht, hp]; rfl)
  rw [hp] at start
  have quiet : s.QuietFor (s.cfg.tSetup + 2 * s.bitcnt.toNat * s.cfg.tHalf + s.cfg.tHold) := fun j hj => hq j hj.le
  have window := Runs.window (r := s.rxcnt.toNat) (acc := s.rxacc) hl hb (by simp [hrd]) (by rw [hrd]; exact quiet)
  rw [← start, hrd] at window
  exact window.pins.trans (waveform_executeTrace s.cfg ⟨s.sr, s.bitcnt.toNat⟩).symm

/-! ### TXL and TXH (R134, R135) -/

/-- Outside RXL a tick of a command in progress counts TIMER down and does nothing else (R28). -/
theorem step_count (hl : s.cfg.legal = true) (hp : s.phase ≠ .idle) (hx : s.phase ≠ .rxl) (hr : (s.hostAt 0).rst = false)
    (ht : 0 < s.timer) : step s = .next { s.passTick with timer := s.timer - 1 } := by
  rw [step_busy hl hp hr, State.phaseTick_count hp ht, State.nextAcc, if_neg hx]
  rfl

/-- TXL is entered by the end of SETUP or of TXH (R181). -/
theorem setup_or_txh_of_enters_txl (hi : s.Inv) (h : step s = .next t) (hr : (s.hostAt 0).rst = false)
    (hp : s.phase ≠ .txl) (hq : t.phase = .txl) : s.phase = .setup ∨ s.phase = .txh := by
  have move := phaseOrder s t hi h hr (hq ▸ hp.symm)
  rw [hq] at move
  cases hrd : s.isread <;> simpa [hrd] using move

/-- A reset tick leads to IDLE (R240). -/
theorem no_reset_of_busy_next (h : step s = .next t) (hq : t.phase ≠ .idle) : (s.hostAt 0).rst = false := by
  cases hr : (s.hostAt 0).rst
  · rfl
  · rw [step_reset h hr] at hq
    exact absurd rfl hq

/-- A phase is entered with TIMER one less than its duration (R28). -/
theorem timer_of_entered (h : step s = .next t) (hne : t.phase ≠ s.phase) (hq : t.phase ≠ .idle) :
    t.timer = BitVec.ofNat 16 (t.phase.duration s.cfg - 1) := by
  have hd := Phase.duration_range (step_cases h).1 hq
  obtain ⟨-, -, entered, -⟩ := timerCountsDown s t h (no_reset_of_busy_next h hq)
  exact (timer_eq_iff (by omega)).mpr (entered hne hq)

/-- Settles O26: the lines are a row of the output table; the entry is told by the order of the phases, and BITCNT by the
invariant, which the tick keeps. -/
theorem txlTick : Obligations.TxlTick := by
  refine ⟨fun s hl hp hr => ?_, fun s t hi h hp hq => ?_⟩
  · have busy : s.phase ≠ .idle := by simp [hp]
    obtain ⟨-, -, lines, -⟩ := (outputTable s).2 hr
    refine ⟨lines hp, step_count hl busy (by simp [hp]) hr, fun ht => ?_⟩
    rw [step_busy hl busy hr, State.phaseTick_txl hp ht]
    rfl
  · have busy : t.phase ≠ .idle := by simp [hq]
    obtain ⟨-, -, -, _, -, bits, -⟩ := ((ticksKeepInvariant s t hi h).holdsCommand busy).frame
    have entered := timer_of_entered h (hq ▸ hp.symm) busy
    rw [hq] at entered
    exact ⟨setup_or_txh_of_enters_txl hi h (no_reset_of_busy_next h busy) hp hq, (bits (.inl hq)).1, entered⟩

/-- The idle tail of R133: CLK and DOUT are low in the phases that follow the frame bits, in reset or not (R36). -/
theorem State.pins_clk_dout_of_afterBits (hp : s.phase = .dml ∨ s.phase = .hold) :
    s.pins.clk = false ∧ s.pins.dout = false := by
  rw [State.pins]
  split
  · exact ⟨rfl, rfl⟩
  · rcases hp with hp | hp <;> simp [State.phasePins, hp]

/-- The end of the last TXH enters the phase that follows the frame bits (R135). -/
theorem step_txh_last (hl : s.cfg.legal = true) (hp : s.phase = .txh) (hr : (s.hostAt 0).rst = false) (ht : s.timer = 0)
    (hb : s.bitcnt = 1) :
    step s = .next (State.enter s.afterBits (s.afterBits.duration s.cfg) { s.passTick with bitcnt := 0 }) := by
  rw [step_busy hl (by simp [hp]) hr, State.phaseTick_txh hp ht, if_neg (by simp [hb]), State.afterBits]
  split_ifs <;> rfl

/-- Settles O27: a row of the output table, and the ends of `State.phaseTick_txh`; after the last bit CLK and DOUT are low
(`State.pins_clk_dout_of_afterBits`). -/
theorem txhTick : Obligations.TxhTick := by
  intro s hl hp hr h1 h32
  have busy : s.phase ≠ .idle := by simp [hp]
  obtain ⟨-, -, -, lines, -⟩ := (outputTable s).2 hr
  refine ⟨lines hp h1 h32, step_count hl busy (by simp [hp]) hr, fun ht hb => ?_, fun ht hb => ?_⟩
  · have pred : s.bitcnt - 1 = BitVec.ofNat 6 (s.bitcnt.toNat - 1) := by bv_omega
    rw [step_busy hl busy hr, State.phaseTick_txh hp ht, if_pos (by bv_omega), pred]
    rfl
  · have last := step_txh_last hl hp hr ht (BitVec.eq_of_toNat_eq hb)
    have tail : s.afterBits = .dml ∨ s.afterBits = .hold := by cases hrd : s.isread <;> simp [State.afterBits, hrd]
    obtain ⟨hclk, hdout⟩ := State.pins_clk_dout_of_afterBits
      (s := State.enter s.afterBits (s.afterBits.duration s.cfg) { s.passTick with bitcnt := 0 }) tail
    refine ⟨_, last, hclk, hdout, fun hrd => ?_, fun hrd => ?_⟩
    all_goals
      rw [State.afterBits, hrd]
      rfl

/-! ### The call trace of Transmit (R130 to R133, R136) -/

/-- The rising edges of Transmit carry the frame's wire string, whatever the levels before (R131, R136). -/
theorem doutAtEdges_transmitTrace {h : Nat} (hh : 1 ≤ h) (frame : FrameWord) (n : Nat) (v : Pins) (clk : Level) :
    doutAtEdges clk (waveform v (transmitTrace h frame n)) = Frame.wire ⟨frame, n⟩ := by
  induction n generalizing v clk with
  | zero => rfl
  | succ n ih =>
    simp only [transmitTrace, List.cons_append, List.nil_append, waveform, doutAtEdges_replicate hh, ih, Frame.wire_succ]
    simp [Pins.apply]

/-- Transmit takes two halves of a CLK cycle for each bit; its idle tail takes no time (R133, R136). -/
theorem length_waveform_transmitTrace (h : Nat) (frame : FrameWord) (n : Nat) (v : Pins) :
    (waveform v (transmitTrace h frame n)).length = 2 * n * h := by
  induction n generalizing v with
  | zero => simp [transmitTrace, waveform]
  | succ n ih =>
    simp only [transmitTrace, List.cons_append, List.nil_append, waveform, List.length_append, List.length_replicate, ih]
    ring

/-- Settles O46: the wire string is the bits from n - 1 down. -/
theorem transmitterSendsMsbFirst : Obligations.TransmitterSendsMsbFirst := fun h n frame v clk hh =>
  ⟨doutAtEdges_transmitTrace hh frame n v clk, length_waveform_transmitTrace h frame n v, rfl⟩

end Machine

end Sys2Proof

/-! # Proofs about the commands' ticks (`42_commands.md`) -/

namespace Sys2Proof

namespace Machine

variable {s : State}

/-! ### IDLE (R151) -/

/-- A load and the tick that passes are the state after acceptance, in the fields R151 names. -/
theorem State.passTick_load (s : State) (f : Frame) (rd : Bool) :
    (s.load f rd).passTick =
      s.started f.value (BitVec.ofNat 6 f.bits) rd (if rd then BitVec.ofNat 5 s.org.wordWidth else 0) := rfl

/-- Settles O24: a quiet tick is IDLE's own (`State.phaseTick_idle`), a rejection is O41's, and an accepted transfer is
loaded (`State.passTick_load`). -/
theorem idleTick : Obligations.IdleTick := by
  intro s hl hp hr
  refine ⟨State.pins_idle hp, s.cmdReady_iff.mpr ⟨hp, hr⟩, fun hv => ?_, fun hv => ?_⟩
  · rw [stepWithoutAcceptance s hl hr (.inr hv), State.phaseTick_idle hp]
  · have ha := s.accepts_iff.mpr ⟨hp, hr, hv⟩
    refine ⟨fun cause he => ?_, fun f he => ?_⟩
    · obtain ⟨-, rejected, -⟩ := rejectionHasNoBusActivity s cause hl ha he
      exact rejected
    · have isRead : ((s.hostAt 0).cmdOp == Command.read.code) = decide ((s.hostAt 0).cmdOp = 5) := rfl
      rw [step_accepts hl ha, State.accept, he, isRead]
      simp only [State.passTick_load, decide_eq_true_eq]

/-! ### SETUP and HOLD (R152, R153) -/

/-- In SETUP the bit-count of an accepted command is still the whole N of its frame, 9 or more (R76, R152). -/
theorem State.HoldsCommand.nine_le_bitcnt (h : s.HoldsCommand) (hp : s.phase = .setup) : 9 ≤ s.bitcnt.toNat := by
  obtain ⟨_, _, _, f, he, -, -, hn⟩ := h
  obtain ⟨c, -, -, hf⟩ := encode_ok he
  simp only [State.CountersAt, hp] at hn
  rw [hn.1, hf]
  exact (frameBits_range s.org c).1

/-- Settles O25: a row of the output table, the three ends of `State.phaseTick_setup`, and the length by O23. -/
theorem setupTick : Obligations.SetupTick := by
  intro s hl hp hr
  have busy : s.phase ≠ .idle := by simp [hp]
  have stays := phasesLastTheirDuration s hl busy
  rw [hp] at stays
  obtain ⟨-, lines, -⟩ := (outputTable s).2 hr
  refine ⟨lines hp, step_count hl busy (by simp [hp]) hr, fun ht hb => ?_, fun ht hb hrd => ?_, fun ht hb hrd => ?_,
    fun hc => hc.nine_le_bitcnt hp, stays⟩
  all_goals rw [step_busy hl busy hr, State.phaseTick_setup hp ht]
  · rw [if_pos hb]
    rfl
  · rw [if_neg (not_not_intro hb), if_pos hrd]
    rfl
  · rw [if_neg (not_not_intro hb), if_neg (by simp [hrd])]
    rfl

/-- Settles O31: a row of the output table, the end of `State.phaseTick_hold`, which leaves PHASE in IDLE, and the length
by O23. -/
theorem holdTick : Obligations.HoldTick := by
  intro s hl hp hr
  have busy : s.phase ≠ .idle := by simp [hp]
  have stays := phasesLastTheirDuration s hl busy
  rw [hp] at stays
  obtain ⟨-, -, -, -, -, -, -, -, lines⟩ := (outputTable s).2 hr
  refine ⟨lines hp, step_count hl busy (by simp [hp]) hr, fun ht => ?_, stays⟩
  have ended : s.phaseTick.passTick.phase = .idle := by rw [State.phaseTick_hold hp ht]; rfl
  have low := State.pins_idle ended
  refine ⟨_, step_busy hl busy hr, by rw [low]; rfl, by rw [low]; rfl, ?_⟩
  rw [State.phaseTick_hold hp ht, readResult_eq]
  rfl

/-! ### The command port outside the acceptance tick (R154, R245, R249) -/

/-- In a tick without reset that accepts no command, the host's other inputs are not read (R33, R249). -/
theorem step_withInput_of_not_accepts {x : HostInput} (hl : s.cfg.legal = true)
    (hp : s.phase ≠ .idle ∨ x.cmdValid = false ∧ (s.hostAt 0).cmdValid = false) (hx : x.rst = false)
    (hr : (s.hostAt 0).rst = false) : step (s.withInput x) = step s := by
  rw [stepWithoutAcceptance s hl hr (hp.imp_right And.right),
    stepWithoutAcceptance (s.withInput x) hl hx (hp.imp_right And.left), State.phaseTick_withInput]
  rfl

/-- Settles O53: the tick of a phase reads no input of the host. -/
theorem operandsAreCapturedAtAcceptance : Obligations.OperandsAreCapturedAtAcceptance := fun _ _ =>
  step_withInput_of_not_accepts

theorem State.cmdReady_of_busy (hp : s.phase ≠ .idle) : s.cmdReady = false := by
  rw [← Bool.not_eq_true, s.cmdReady_iff]
  exact fun h => hp h.1

/-- An instruction on the port of a busy CORE is not taken: its tick is the step (R154). -/
theorem exec_busy (i : Instr) (hl : s.cfg.legal = true) (hp : s.phase ≠ .idle) : exec i s = step s := by
  rw [exec_eq, State.commandTick, State.cmdReady_of_busy hp, step_plain hl (State.accepts_of_busy hp)]
  rfl

/-- Settles O40: the instruction's tick is the step (`exec_busy`), whatever is on the port (O53). -/
theorem busyCoreTakesNoCommand : Obligations.BusyCoreTakesNoCommand := by
  intro s i hl hp hr
  rw [exec_busy i hl hp]
  have unread (x : HostInput) (hx : x.rst = false) : step (s.withInput x) = step s :=
    step_withInput_of_not_accepts hl (.inl hp) hx hr
  exact ⟨State.cmdReady_of_busy hp, (unread { s.hostAt 0 with cmdValid := false } hr).symm, unread i.transfer rfl⟩

end Machine

end Sys2Proof

/-! # Proofs about the Read command (`43_read.md`) -/

namespace Sys2Proof

namespace Machine

variable {s t u : State}

/-! ### The device's word (R185, R186, R226) -/

/-- RXACC after a string of samples is the string's value (R32, R53). -/
theorem accumulate_eq_wireValue (bits : List Level) : accumulate 16 bits = BitVec.ofNat 16 (wireValue bits) := by
  induction bits using List.reverseRecOn with
  | nil => rfl
  | append_singleton bits b ih =>
    rw [accumulate_append_singleton, ih, wireValue_append_singleton]
    refine (shiftIn_eq _ b).trans (BitVec.eq_of_toNat_eq ?_)
    simp only [BitVec.toNat_ofNat]
    omega

/-- A device that keeps the contract presents its word as a wire string: each sample is taken in the low phase in which
the bit is held (R186, R226(b)). -/
theorem State.DevicePresents.samples_eq_wire {word : DataWord} (h : s.DevicePresents word) (hl : s.cfg.legal = true) :
    s.samples = Frame.wire ⟨word.setWidth 32, s.org.wordWidth⟩ := by
  refine List.map_congr_left fun k hk => ?_
  have hk : k < s.org.wordWidth := List.mem_range.mp hk
  have half := (Params.legal_durations hl).1
  have fromEdge := edgeTick_add_tHalf s.cfg s.org k
  have toEdge := sampleTick_add_tHalf s.cfg s.org k
  have width := s.org.wordWidth_range
  show _ = (word.setWidth 32).getLsbD (s.org.wordWidth - 1 - k)
  rw [h k hk _ (by omega) (by omega), BitVec.getLsbD_setWidth, decide_eq_true (by omega), Bool.true_and]

/-- The samples of the device's word accumulate to that word. -/
theorem State.DevicePresents.accumulate_samples_eq {word : DataWord} (h : s.DevicePresents word) (hl : s.cfg.legal = true)
    (hw : word.toNat < 2 ^ s.org.wordWidth) : accumulate 16 s.samples = word := by
  have value : wireValue s.samples = word.toNat := by
    rw [h.samples_eq_wire hl, wireValue_wire, BitVec.toNat_setWidth_of_le (by decide), Nat.mod_eq_of_lt hw]
  rw [accumulate_eq_wireValue, value, BitVec.ofNat_toNat, BitVec.setWidth_eq]

/-- Settles O49: the run of O42 responds with the accumulated samples, which are the device's word. -/
theorem readReturnsTheDeviceWord : Obligations.ReadReturnsTheDeviceWord := by
  intro s i word hl hr ho hread hwf hq hw hdev
  obtain ⟨t, started, window, -⟩ := commandsRunToTheirResponse s i hl hr ho hwf (by rwa [hread])
  rw [hread, if_pos rfl, if_pos rfl, if_pos rfl, ← accumulate_samples, hdev.accumulate_samples_eq hl hw] at window
  exact ⟨t, _, started, window, rfl, rfl, rfl⟩

/-! ### The dummy cycle (R182) -/

/-- A command in progress enters DML at the end of its last TXH: SETUP has bits to send (R152, R181). -/
theorem PhaseStep.last_txh_of_enters_dml (h : PhaseStep s u) (hi : s.Inv) (hp : s.phase ≠ .dml) (hq : u.phase = .dml) :
    s.phase = .txh ∧ s.bitcnt = 1 := by
  cases h with
  | idle => exact absurd hq hp
  | count => exact absurd hq hp
  | setupDummy hp _ hb => exact absurd hb ((hi.holdsCommand (by simp [hp])).bitsToSend hp)
  | txhDummy hp _ hb => exact ⟨hp, hb⟩
  | _ => cases hq

/-- No tick of acceptance or rejection enters DML (R151). -/
theorem TickStep.phaseStep_of_enters_dml (h : TickStep s u) (hp : s.phase ≠ .dml) (hq : u.phase = .dml) : PhaseStep s u := by
  cases h with
  | reject => exact absurd hq hp
  | load => cases hq
  | phase _ _ hu => exact hu

/-- Settles O28: DML is entered by the end of the last TXH (`PhaseStep.last_txh_of_enters_dml`); each half is a row of the
output table, the count-down of `step_count`, which writes TIMER only, and the half's end. -/
theorem dummyCycleTicks : Obligations.DummyCycleTicks := by
  refine ⟨fun s t hi h hp hq => ?_, fun s hl hr => ?_⟩
  · have busy : t.phase ≠ .idle := by simp [hq]
    have entered := timer_of_entered h (hq ▸ hp.symm) busy
    rw [hq] at entered
    obtain ⟨u, hu, rfl⟩ := step_tickStep h (no_reset_of_busy_next h busy)
    obtain ⟨last, bit⟩ := (hu.phaseStep_of_enters_dml hp hq).last_txh_of_enters_dml hi hp hq
    exact ⟨last, bit, entered⟩
  · obtain ⟨-, -, -, -, lowLines, highLines, -⟩ := (outputTable s).2 hr
    refine ⟨fun hp => ?_, fun hp => ?_⟩
    all_goals have busy : s.phase ≠ .idle := by simp [hp]
    · refine ⟨lowLines hp, step_count hl busy (by simp [hp]) hr, fun ht => ?_⟩
      rw [step_busy hl busy hr, State.phaseTick_dml hp ht]
      rfl
    · refine ⟨highLines hp, step_count hl busy (by simp [hp]) hr, fun ht => ?_⟩
      rw [step_busy hl busy hr, State.phaseTick_dmh hp ht]
      rfl

/-! ### RXH (R184) -/

/-- Settles O30: a row of the output table, and the two ends of `State.phaseTick_rxh`. -/
theorem rxhTick : Obligations.RxhTick := by
  intro s hl hp hr _
  have busy : s.phase ≠ .idle := by simp [hp]
  obtain ⟨-, -, -, -, -, -, -, lines, -⟩ := (outputTable s).2 hr
  refine ⟨lines hp, step_count hl busy (by simp [hp]) hr, fun ht hx => ?_, fun ht hx => ?_⟩
  all_goals rw [step_busy hl busy hr, State.phaseTick_rxh hp ht]
  · have pred : s.rxcnt - 1 = BitVec.ofNat 5 (s.rxcnt.toNat - 1) := by bv_omega
    rw [if_pos (by bv_omega), pred]
    rfl
  · rw [if_neg (not_not_intro (BitVec.eq_of_toNat_eq hx))]
    rfl

/-! ### DIN outside the sampling tick (R190) -/

/-- Another level on DIN in this tick. -/
def State.withDin (l : Level) (s : State) : State := { s with din := l :: s.din.tail }

/-- The sampling tick is the first of an RXL phase (R183). -/
def State.sampling (s : State) : Prop := s.phase = .rxl ∧ s.timer = BitVec.ofNat 16 (s.cfg.tHalf - 1)

/-- In the other ticks of RXL no sample is taken (R183). -/
theorem State.sample_of_not_sampling (hp : s.phase = .rxl) (h : ¬s.sampling) : s.sample = s :=
  if_neg fun ht => h ⟨hp, ht⟩

/-- A timed phase whose end does not read DIN does not read it at all. -/
theorem State.timed_withDin {l : Level} {g : State → State} (hg : g (s.withDin l) = (g s).withDin l) :
    State.timed g (s.withDin l) = (State.timed g s).withDin l := by
  rw [State.timed, State.timed, apply_ite (State.withDin l), hg]
  rfl

/-- Outside the sampling tick the tick of a phase does not read DIN: no end of a phase does, and RXL takes no sample. -/
theorem State.phaseTick_withDin (l : Level) (h : ¬s.sampling) : (s.withDin l).phaseTick = s.phaseTick.withDin l := by
  rw [State.phaseTick, State.phaseTick, show (s.withDin l).phase = s.phase from rfl]
  cases hp : s.phase with
  | idle => rfl
  | setup | txh | rxh => exact State.timed_withDin (by simp only [apply_ite (State.withDin l)]; rfl)
  | rxl =>
    show State.rxlTick (s.withDin l) = s.rxlTick.withDin l
    rw [State.rxlTick, State.rxlTick, State.sample_of_not_sampling hp h,
      State.sample_of_not_sampling (s := s.withDin l) hp h]
    exact State.timed_withDin rfl
  | txl | dml | dmh | hold => exact State.timed_withDin rfl

/-- Acceptance does not read DIN (R151). -/
theorem State.accept_withDin (l : Level) (op : BitVec 3) (a d : Operand) (s : State) :
    (s.withDin l).accept op a d = (s.accept op a d).withDin l := by
  rw [State.accept, State.accept, show (s.withDin l).cfg = s.cfg from rfl, show (s.withDin l).org = s.org from rfl]
  cases encode s.cfg.opcodes s.org op a d <;> rfl

/-- Once the tick has passed, the level DIN had in it is gone. -/
theorem State.passTick_withDin (l : Level) (s : State) : (s.withDin l).passTick = s.passTick := rfl

/-- A tick that accepts nothing reads DIN in the sampling tick only; in reset it reads none. -/
theorem State.plainTick_withDin (l : Level) (h : ¬s.sampling) : (s.withDin l).plainTick = s.plainTick := by
  rw [State.plainTick, State.phaseTick_withDin l h]
  rfl

/-- Outside the sampling tick a step does not read DIN (R190). -/
theorem step_withDin (l : Level) (hl : s.cfg.legal = true) (h : ¬s.sampling) : step (s.withDin l) = step s := by
  cases ha : s.accepts
  · rw [step_plain hl ha, step_plain (s := s.withDin l) hl ha, State.plainTick_withDin l h]
  · rw [step_accepts hl ha, step_accepts (s := s.withDin l) hl ha, State.accept_withDin, State.passTick_withDin]
    rfl

/-- Settles O52: the step by `step_withDin`; the output function reads no DIN. -/
theorem dinIsReadOnlyAtSamples : Obligations.DinIsReadOnlyAtSamples := by
  intro s l hl h
  have h16 : s.cfg.tHalf - 1 < 65536 := by
    have := (Params.legal_durations hl).1
    omega
  exact ⟨step_withDin l hl fun hs => h ⟨hs.1, (timer_eq_iff h16).mp hs.2⟩, rfl⟩

end Machine

end Sys2Proof

/-! # Proofs about reset and hazards (`70_reset_and_hazards.md`) -/

namespace Sys2Proof

namespace Machine

/-- The registers' reset values, with ORG from the strap, and the passing tick are the state after reset (R38, R240). -/
theorem State.passTick_resetRegisters (s : State) (o : Org) : (s.resetRegisters o).passTick = s.afterReset o := rfl

/-- Settles O32: the lines are the reset row of the output table, and the tick, which accepts nothing, resets the
registers (`step_reset`). -/
theorem resetTick : Obligations.ResetTick := by
  intro s hl hr
  have notReady : s.cmdReady = false := by
    rw [← Bool.not_eq_true, s.cmdReady_iff]
    simp [hr]
  refine ⟨(outputTable s).1 hr, notReady, ?_⟩
  obtain ⟨t, h⟩ := step_legal hl
  rw [h, step_reset h hr, State.passTick_resetRegisters]
  rfl

/-- Settles O33: the reset leaves PHASE in IDLE and RSPV at 0, and IDLE without `rst` is ready. -/
theorem readyAfterReset : Obligations.ReadyAfterReset := by
  intro s t hr h hr'
  have reset := step_reset h hr
  have idle : t.phase = .idle := by rw [reset]; rfl
  have noResponse : t.rspv = false := by rw [reset]; rfl
  exact ⟨idle, t.cmdReady_iff.mpr ⟨idle, hr'⟩, noResponse, fun hv => t.accepts_iff.mpr ⟨idle, hr', hv⟩⟩

end Machine

end Sys2Proof

/-! # Proofs about the layout table and its words (`30_encoding.md`, section 2) -/

namespace Sys2Proof

/-- Settles O6: each row evaluates to the table's numbers. -/
theorem layoutTableRows : Obligations.LayoutTableRows :=
  ⟨rfl, rfl, rfl, rfl, rfl, rfl, rfl, rfl, rfl, rfl, rfl, rfl, rfl, rfl⟩

/-! ### Words with any don't-care bits (R78, R83) -/

/-- In a legal table no other row of its length matches a frame that matches `c` (R83). -/
theorem find?_matchesRow_of_match {t : OpcodeTable} (ht : t.legal = true) {org : Org} {c : Command} {f : FrameWord}
    (hm : f &&& (layout t org c).mask = (layout t org c).pattern) :
    Command.all.find? (matchesRow t org (frameBits org c) f) = some c := by
  refine find?_eq_some_of_unique (by cases c <;> decide) fun c' => ?_
  rw [matchesRow, Bool.and_eq_true, beq_iff_eq, beq_iff_eq]
  constructor
  · rintro ⟨hN, hm'⟩
    exact eq_of_match ht hN hm hm'
  · rintro rfl
    exact ⟨rfl, hm⟩

/-- The decoder reads a frame from the row it matches, whatever its don't-care bits (R78, R83). -/
theorem decodeFrame_of_match {t : OpcodeTable} (ht : t.legal = true) {org : Org} {c : Command} {f : FrameWord}
    (hf : f.toNat < 2 ^ frameBits org c) (hm : f &&& (layout t org c).mask = (layout t org c).pattern) :
    decodeFrame t org (frameBits org c) f = .ok (readRow t org f c) := by
  have known : ¬Command.all.all (fun c' => frameBits org c' != frameBits org c) = true := by
    rw [Command.all_all_iff]
    intro h
    simpa using h c
  rw [decodeFrame, if_neg (Nat.not_le.mpr hf), if_neg known, find?_matchesRow_of_match ht hm]

/-- The bit-count that the start bit tells bounds the word (R74). -/
theorem lt_of_lengthOf {v n : Nat} {org : Org} (h : lengthOf v = some (n, org)) : v < 2 ^ n := by
  have found := List.find?_some h
  rw [Bool.and_eq_true, decide_eq_true_iff, decide_eq_true_iff] at found
  exact found.2

/-- A table word whose start bit tells a row's bit-count and that matches the row is read from it (R8, R83). -/
theorem decodeTableWord_of_match (org : Org) (c : Command) {nbits w : Nat}
    (hlen : lengthOf (w % 2 ^ nbits) = some (frameBits org c, org))
    (hm : BitVec.ofNat 32 (w % 2 ^ nbits) &&& (layout Config.defaultOpcodes org c).mask =
      (layout Config.defaultOpcodes org c).pattern) :
    decodeTableWord nbits w = some (readRow Config.defaultOpcodes org (BitVec.ofNat 32 (w % 2 ^ nbits)) c) := by
  have legal : Config.defaultOpcodes.legal = true := by decide
  have fits : (BitVec.ofNat 32 (w % 2 ^ nbits)).toNat < 2 ^ frameBits org c := by
    rw [BitVec.toNat_ofNat]
    exact (Nat.mod_le _ _).trans_lt (lt_of_lengthOf hlen)
  simp only [decodeTableWord, hlen, decodeFrame_of_match legal fits hm]

/-- Settles O1: each word has its row's bit-count and matches its row (`decodeTableWord_of_match`). -/
theorem specFrameWordsDecode : Obligations.SpecFrameWordsDecode :=
  ⟨decodeTableWord_of_match .sixteen .writeDisable rfl rfl, decodeTableWord_of_match .sixteen .writeAll rfl rfl,
    decodeTableWord_of_match .sixteen .eraseAll rfl rfl, decodeTableWord_of_match .sixteen .writeEnable rfl rfl,
    decodeTableWord_of_match .sixteen .write rfl rfl, decodeTableWord_of_match .sixteen .read rfl rfl,
    decodeTableWord_of_match .sixteen .erase rfl rfl, decodeTableWord_of_match .eight .writeDisable rfl rfl,
    decodeTableWord_of_match .eight .writeAll rfl rfl, decodeTableWord_of_match .eight .eraseAll rfl rfl,
    decodeTableWord_of_match .eight .writeEnable rfl rfl, decodeTableWord_of_match .eight .write rfl rfl,
    decodeTableWord_of_match .eight .read rfl rfl, decodeTableWord_of_match .eight .erase rfl rfl⟩

end Sys2Proof
